-- ==== Sys2Proof/Word.lean ====
section
/-! DEFINITION. The words of the machine: bytes, the 15-bit request word, the bus word `{rs, byte}`
(`00_scope.md` R12, R14, R18; `30_encoding.md` R70, R74). -/

namespace Sys2Proof

/-- A command byte, a data byte, a request's argument (R12). Bit `i` drives line D`i` (R54). -/
abbrev Byte := BitVec 8

/-- A request packed as `{req_op, req_flags, req_arg}` (R70). -/
abbrev RequestWord := BitVec 15

/-- A bus word packed as `{RS, D7, …, D0}` (R74). -/
abbrev BusBits := BitVec 9

/-- The pair one enable pulse carries, written `{rs, byte}` in the spec (R18, R74). -/
structure BusWord where
  rs : Bool
  byte : Byte
  deriving DecidableEq, Repr

/-- The three input fields of a request (R32, R70). -/
structure Request where
  op : BitVec 4
  flags : BitVec 3
  arg : Byte
  deriving DecidableEq, Repr

end Sys2Proof
end

