-- ==== Sys2Proof/Config.lean ====
section
/-! DEFINITION. The parameters of the build (`00_scope.md` R6 to R11) and of the environment
(`92_eei_decisions.md` D28). None of them is written by a step. -/

namespace Sys2Proof

/-- The three phase lengths in `clk` cycles (R7, R8, R9). Their values are OPEN: every statement over all
states is a statement over all of them. -/
structure Params where
  /-- `T_SETUP` (R7) -/
  tSetup : Nat
  /-- `T_HOLD` (R8) -/
  tHold : Nat
  /-- `T_GAP` (R9) -/
  tGap : Nat
  deriving DecidableEq, Repr

namespace Params

/-- Each length is at least 1 (R7, R8, R9). -/
abbrev Legal (p : Params) : Prop := 1 ≤ p.tSetup ∧ 1 ≤ p.tHold ∧ 1 ≤ p.tGap

/-- `L`, the length of one transaction in cycles (R110). -/
def length (p : Params) : Nat := p.tSetup + p.tHold + p.tGap

/-- `W_T`: the smallest width, at least 1, that holds `max(T_SETUP, T_HOLD, T_GAP) - 1` (R11). -/
def timerWidth (p : Params) : Nat := Nat.log2 (max p.tSetup (max p.tHold p.tGap) - 1) + 1

/-- The parameters of the spec's test vectors (`95_test_vectors.md`): the spec's defaults 1 for `T_SETUP` and
`T_GAP` (R7, R9). DESIGN CHOICE (log entry 1): `T_HOLD` is OPEN, and 2 is the test vectors' value. -/
def vectors : Params := { tSetup := 1, tHold := 2, tGap := 1 }

end Params

/-- The eight command families (R1, R74), in the order of their selector bits (R76). -/
inductive Family where
  | clear
  | home
  | entryModeSet
  | displayControl
  | cursorDisplayShift
  | functionSet
  | setCgramAddr
  | setDdramAddr
  deriving DecidableEq, Repr

/-- The OPEN parameters no step reads: the clock frequency in hertz (R6) and the controller's timing figures in
seconds (R10, D28). They are arguments of the timing conditions of `Safety.lean`. A clock R6 excludes cannot be built. -/
structure Environment where
  /-- `F_CLK_HZ`, a positive integer (R6) -/
  fClkHz : Nat
  /-- `F_CLK_HZ` is positive (R6). -/
  fClkHz_pos : 0 < fClkHz
  /-- `T_PW_MIN`, minimum enable pulse width (R10) -/
  tPwMin : Rat
  /-- `T_AS_MIN`, address setup before E (R229) -/
  tAsMin : Rat
  /-- `T_AH_MIN`, address and data hold after E (R229) -/
  tAhMin : Rat
  /-- `T_EL_MIN`, minimum E-low time between pulses (R229) -/
  tElMin : Rat
  /-- `T_EXEC(cmd)`, the controller's execution time of a latched word (R226) -/
  tExec : BusWord → Rat
  /-- `T_EXEC_MAX` (R226) -/
  tExecMax : Rat
  /-- `T_POWERUP`, delay after controller power-up (R224) -/
  tPowerup : Rat

/-- The reference value of `T_HOLD`: `ceil(0.005 * F_CLK_HZ)` (R8), in whole numbers. -/
def referenceHold (fClkHz : Nat) : Nat := (fClkHz + 199) / 200

end Sys2Proof
end

