-- ==== Sys2Proof/Syntax.lean ====
section
/-! DEFINITION. The instructions: one constructor per row of `spec/opcode_table.json` (`30_encoding.md` R71,
R74, R84). Ignored fields (R73) are kept, so that every 15-bit request word is one instruction and back. -/

namespace Sys2Proof

/-- The two input forms of WRITE_CHAR: a raw byte value (R160) or a character (R161). The byte is the host's
number, which may not fit the 8-bit port (D16, U10); `WellFormed` checks it. -/
inductive CharOperand where
  | byte (v : Int)
  | char (c : Char)
  deriving DecidableEq, Repr

/-- One constructor per row of the opcode table. A `Bool` is one flag bit; `true` selects the option the source
spells with a nonzero constant (R72). -/
inductive Instr where
  -- REQ: the request words of R70, R71
  | sendCmd (flags : BitVec 3) (arg : Byte)
  | sendData (flags : BitVec 3) (arg : Byte)
  | clear (flags : BitVec 3) (arg : Byte)
  | home (flags : BitVec 3) (arg : Byte)
  | entryMode (ignored increment shift : Bool) (arg : Byte)
  | displayCtrl (on cursor blink : Bool) (arg : Byte)
  | shift (ignored display right : Bool) (arg : Byte)
  | functionSet (eightBit twoLine fiveByTen : Bool) (arg : Byte)
  | setCgram (flags : BitVec 3) (address : Byte)
  | setDdram (flags : BitVec 3) (address : Byte)
  | init (flags : BitVec 3) (arg : Byte)
  | readFlag (flags : BitVec 3) (arg : Byte)
  | readData (flags : BitVec 3) (arg : Byte)
  | reservedD (flags : BitVec 3) (arg : Byte)
  | reservedE (flags : BitVec 3) (arg : Byte)
  | reservedF (flags : BitVec 3) (arg : Byte)
  -- BUS: the bus words of R74
  | busClear
  | busHome
  | busEntryModeSet (increment shift : Bool)
  | busDisplayControl (on cursor blink : Bool)
  | busCursorDisplayShift (display right : Bool)
  | busFunctionSet (eightBit twoLine fiveByTen : Bool)
  | busSetCgramAddr (address : BitVec 6)
  | busSetDdramAddr (address : BitVec 7)
  | busData (data : Byte)
  -- PSEUDO: the host-level operations of R84
  | writeChar (c : CharOperand)
  | writeString (s : List Char)
  deriving DecidableEq, Repr

/-- The three formats of the opcode table. -/
inductive Format where
  | req
  | bus
  | pseudo
  deriving DecidableEq, Repr

def Instr.format : Instr → Format
  | .sendCmd _ _ => .req
  | .sendData _ _ => .req
  | .clear _ _ => .req
  | .home _ _ => .req
  | .entryMode _ _ _ _ => .req
  | .displayCtrl _ _ _ _ => .req
  | .shift _ _ _ _ => .req
  | .functionSet _ _ _ _ => .req
  | .setCgram _ _ => .req
  | .setDdram _ _ => .req
  | .init _ _ => .req
  | .readFlag _ _ => .req
  | .readData _ _ => .req
  | .reservedD _ _ => .req
  | .reservedE _ _ => .req
  | .reservedF _ _ => .req
  | .busClear => .bus
  | .busHome => .bus
  | .busEntryModeSet _ _ => .bus
  | .busDisplayControl _ _ _ => .bus
  | .busCursorDisplayShift _ _ => .bus
  | .busFunctionSet _ _ _ => .bus
  | .busSetCgramAddr _ => .bus
  | .busSetDdramAddr _ => .bus
  | .busData _ => .bus
  | .writeChar _ => .pseudo
  | .writeString _ => .pseudo

end Sys2Proof
end

