-- ==== Sys2Proof/Machine/State.lean ====
section
/-! DEFINITION. The state of the machine (`10_state.md` R20 to R28, R36), the host's moves (`00_scope.md` R19,
`10_state.md` R32), the reasons a step can stop, and the state right after reset (`70_reset_and_hazards.md` R220). -/

namespace Sys2Proof.Machine

/-- The sequencer phase (R24). -/
inductive Phase where
  | idle
  | setup
  | pulse
  | gap
  deriving DecidableEq, Repr

/-- One event per falling edge of E (R36): a pulse that ended normally, or one that reset cut short. -/
inductive Event where
  | latched (rs : Bool) (byte : Byte)
  | truncated (rs : Bool) (byte : Byte) (highCycles : Nat)
  deriving DecidableEq, Repr

/-- The levels of the input ports in one cycle (R32). -/
structure Ports where
  rst : Bool
  reqValid : Bool
  req : Request
  deriving DecidableEq, Repr

/-- What the host does next. It drives the ports freely (R19), or follows its duty of R112: it holds a request until
an edge accepts it. The two pseudo-operations (R84) stand for the requests they expand to. -/
inductive HostMove where
  /-- drive these levels for exactly one edge -/
  | drive (p : Ports)
  /-- hold this request, with `rst` low, until it is accepted -/
  | request (r : Request)
  | writeChar (c : CharOperand)
  | writeString (s : List Char)
  deriving DecidableEq, Repr

/-- The registers of R20, the observation log of R36, the build's parameters, and the host's coming moves. -/
structure State where
  /-- Register-Select output latch (R21) -/
  rsQ : Bool
  /-- Enable output latch (R22) -/
  eQ : Bool
  /-- data-bus output latch (R23) -/
  dQ : Byte
  /-- sequencer phase (R24) -/
  phase : Phase
  /-- enable-pulse timer (R25); its width is an invariant (log entry 3) -/
  timer : Nat
  /-- an INIT request is in progress (R26) -/
  seqActive : Bool
  /-- the INIT step in progress (R26) -/
  seqIdx : Fin 4
  /-- result of the most recently accepted request (R27) -/
  errCode : BitVec 2
  /-- some accepted request since reset raised an error (R28) -/
  errSticky : Bool
  /-- the falling edges of E, oldest first (R36); a model observation, not hardware -/
  log : List Event
  /-- `T_SETUP`, `T_HOLD`, `T_GAP`; no step writes them (log entry 1) -/
  params : Params
  /-- what the host will drive, the move of the current cycle first (log entry 2) -/
  host : List HostMove
  deriving DecidableEq, Repr

/-- What stops the machine. Nothing does: "the block takes no traps" (`60_exceptions.md` R210), and an error is a
status value (R201). The type has no constructor. -/
inductive Fault where
  deriving DecidableEq, Repr

/-- Why the model gives no next state. -/
inductive Refusal where
  /-- raised only by `exec`'s arms that have no meaning yet (none is left); safe -/
  | notModelled (mnemonic : String)
  /-- raised by WRITE_CHAR when its byte operand is outside 0..255 (R160, D16, U10): the host's assembler refuses it,
  and it never reaches the block; safe -/
  | byteOutOfRange (v : Int)
  /-- raised by WRITE_CHAR and WRITE_STRING for a character with code point above 0xFF (R161, D17, U10): the host's
  assembler refuses it; safe -/
  | codePointTooLarge (c : Char)
  deriving DecidableEq, Repr

/-- The state right after reset for a build with parameters `p`: the values of R20 and R220, the empty log of R36, and
a host that has nothing to drive. -/
def State.resetWith (p : Params) : State :=
  { rsQ := false, eQ := false, dQ := 0x00, phase := .idle, timer := 0, seqActive := false, seqIdx := 0,
    errCode := 0b00, errSticky := false, log := [], params := p, host := [] }

/-- The state right after reset, for the test vectors' parameters (log entry 1). -/
def State.reset : State := State.resetWith Params.vectors

end Sys2Proof.Machine
end

