-- ==== Sys2Proof/Machine/Flags.lean ====
section
/-! DEFINITION. The status values and how they are written (`10_state.md` R27, R28; `60_exceptions.md` R201 to R204),
the 2-bit code of a phase (R24). The block has no arithmetic flags (R30). -/

namespace Sys2Proof.Machine

/-- `err_code` 0b00 (R27, R204) -/
def errOk : BitVec 2 := 0b00

/-- `err_code` 0b01 (R27, R202) -/
def errUnsupported : BitVec 2 := 0b01

/-- `err_code` 0b10 (R27, R203) -/
def errReserved : BitVec 2 := 0b10

/-- An accepted request that raises no error writes OK and leaves `err_sticky` (R204, R211). -/
def State.writeOk (s : State) : State := { s with errCode := errOk }

/-- `raise <Error>(code)`: `err_code <- code`, `err_sticky <- 1`, and nothing else (R201). -/
def State.raise (code : BitVec 2) (s : State) : State := { s with errCode := code, errSticky := true }

/-- The encoding of the phase register: IDLE = 0, SETUP = 1, PULSE = 2, GAP = 3 (R24). -/
def Phase.code : Phase → BitVec 2
  | .idle => 0
  | .setup => 1
  | .pulse => 2
  | .gap => 3

end Sys2Proof.Machine
end

