-- ==== Sys2Proof/WellFormed.lean ====
section
/-! DEFINITION. Which instructions are well formed. A request or bus word's fields have their exact widths in the
syntax; what is left to check is that a pseudo-operation's operands fit the 8-bit argument
(`92_eei_decisions.md` D16, D17; `93_implementation_defined.md` U10). -/

namespace Sys2Proof

/-- A byte operand is 0..255 (R160), a character's code point is at most 0xFF (R161). -/
def CharOperand.fits : CharOperand → Bool
  | .byte v => decide (0 ≤ v ∧ v ≤ 255)
  | .char c => decide (c.toNat ≤ 0xFF)

def Instr.wellFormed : Instr → Bool
  | .sendCmd _ _ => true
  | .sendData _ _ => true
  | .clear _ _ => true
  | .home _ _ => true
  | .entryMode _ _ _ _ => true
  | .displayCtrl _ _ _ _ => true
  | .shift _ _ _ _ => true
  | .functionSet _ _ _ _ => true
  | .setCgram _ _ => true
  | .setDdram _ _ => true
  | .init _ _ => true
  | .readFlag _ _ => true
  | .readData _ _ => true
  | .reservedD _ _ => true
  | .reservedE _ _ => true
  | .reservedF _ _ => true
  | .busClear => true
  | .busHome => true
  | .busEntryModeSet _ _ => true
  | .busDisplayControl _ _ _ => true
  | .busCursorDisplayShift _ _ => true
  | .busFunctionSet _ _ _ => true
  | .busSetCgramAddr _ => true
  | .busSetDdramAddr _ => true
  | .busData _ => true
  | .writeChar c => c.fits
  | .writeString s => s.all fun c => CharOperand.fits (.char c)

abbrev Instr.WellFormed (i : Instr) : Prop := i.wellFormed = true

end Sys2Proof
end

