-- ==== Sys2Proof/Decode.lean ====
section
/-! DEFINITION. The decoders of the two word formats, and after them the encoder (`30_encoding.md` R70 to R82,
`40_bus_primitives.md` R107). The request decoder is total: every 15-bit word is an instruction. The bus-word
decoder is for reading a log (R76: the block itself never decodes bus words); it rejects by name the words outside
the documented forms (R81). -/

namespace Sys2Proof

/-! ## Fields -/

/-- The low field of `arg` (7:0), then `flags` (10:8), then `op` (14:11) (R70). -/
def Request.ofWord (w : RequestWord) : Request :=
  { op := w.extractLsb' 11 4, flags := w.extractLsb' 8 3, arg := w.extractLsb' 0 8 }

/-- `REQ = {req_op, req_flags, req_arg}` (R70). -/
def Request.word (r : Request) : RequestWord := r.op ++ r.flags ++ r.arg

/-- `flags[2]`, `flags[1]`, `flags[0]` as one 3-bit field. -/
def flags3 (b2 b1 b0 : Bool) : BitVec 3 := BitVec.ofBool b2 ++ BitVec.ofBool b1 ++ BitVec.ofBool b0

/-- Bit 8 is RS, bits 7:0 are D7..D0 (R74). -/
def BusWord.ofBits (w : BusBits) : BusWord := { rs := w.getLsbD 8, byte := w.extractLsb' 0 8 }

/-- `{RS, D7, …, D0}` (R74). -/
def BusWord.bits (w : BusWord) : BusBits := BitVec.ofBool w.rs ++ w.byte

/-! ## Request words -/

/-- The instruction of a request, by its opcode (R71, R107). Total; the last arm is opcode 0xF. -/
def decodeRequest (r : Request) : Instr :=
  match r.op.toNat with
  | 0x0 => .sendCmd r.flags r.arg
  | 0x1 => .sendData r.flags r.arg
  | 0x2 => .clear r.flags r.arg
  | 0x3 => .home r.flags r.arg
  | 0x4 => .entryMode (r.flags.getLsbD 2) (r.flags.getLsbD 1) (r.flags.getLsbD 0) r.arg
  | 0x5 => .displayCtrl (r.flags.getLsbD 2) (r.flags.getLsbD 1) (r.flags.getLsbD 0) r.arg
  | 0x6 => .shift (r.flags.getLsbD 2) (r.flags.getLsbD 1) (r.flags.getLsbD 0) r.arg
  | 0x7 => .functionSet (r.flags.getLsbD 2) (r.flags.getLsbD 1) (r.flags.getLsbD 0) r.arg
  | 0x8 => .setCgram r.flags r.arg
  | 0x9 => .setDdram r.flags r.arg
  | 0xA => .init r.flags r.arg
  | 0xB => .readFlag r.flags r.arg
  | 0xC => .readData r.flags r.arg
  | 0xD => .reservedD r.flags r.arg
  | 0xE => .reservedE r.flags r.arg
  | _ => .reservedF r.flags r.arg

/-! ## Bus words -/

/-- The family of a command byte: the position of its most significant 1 bit (R76); 0x00 has none. -/
def commandFamily (b : Byte) : Option Family :=
  if b.getLsbD 7 then some .setDdramAddr
  else if b.getLsbD 6 then some .setCgramAddr
  else if b.getLsbD 5 then some .functionSet
  else if b.getLsbD 4 then some .cursorDisplayShift
  else if b.getLsbD 3 then some .displayControl
  else if b.getLsbD 2 then some .entryModeSet
  else if b.getLsbD 1 then some .home
  else if b.getLsbD 0 then some .clear
  else none

/-- Why a word is no instruction. -/
inductive DecodeError where
  /-- the command byte 0x00, which belongs to no family (R76, R81) -/
  | noFamily
  /-- a bit below the family's selector that is no documented option bit is set (R81) -/
  | undocumentedBits (f : Family)
  deriving DecidableEq, Repr

/-- The command of a byte sent with RS = 0, by the patterns of R74. -/
def decodeCommand (b : Byte) : Except DecodeError Instr :=
  match commandFamily b with
  | none => .error .noFamily
  | some .clear => .ok .busClear
  | some .home => if b.getLsbD 0 then .error (.undocumentedBits .home) else .ok .busHome
  | some .entryModeSet => .ok (.busEntryModeSet (b.getLsbD 1) (b.getLsbD 0))
  | some .displayControl => .ok (.busDisplayControl (b.getLsbD 2) (b.getLsbD 1) (b.getLsbD 0))
  | some .cursorDisplayShift =>
    if b.getLsbD 1 || b.getLsbD 0 then .error (.undocumentedBits .cursorDisplayShift)
    else .ok (.busCursorDisplayShift (b.getLsbD 3) (b.getLsbD 2))
  | some .functionSet =>
    if b.getLsbD 1 || b.getLsbD 0 then .error (.undocumentedBits .functionSet)
    else .ok (.busFunctionSet (b.getLsbD 4) (b.getLsbD 3) (b.getLsbD 2))
  | some .setCgramAddr => .ok (.busSetCgramAddr (b.extractLsb' 0 6))
  | some .setDdramAddr => .ok (.busSetDdramAddr (b.extractLsb' 0 7))

/-- A data word (RS = 1) carries any byte (R74). -/
def decodeBusWord (w : BusWord) : Except DecodeError Instr :=
  if w.rs then .ok (.busData w.byte) else decodeCommand w.byte

/-! ## Code words -/

/-- A word of one of the two formats. -/
inductive CodeWord where
  | req (w : RequestWord)
  | bus (w : BusBits)
  deriving DecidableEq, Repr

def decode : CodeWord → Except DecodeError Instr
  | .req w => .ok (decodeRequest (Request.ofWord w))
  | .bus w => decodeBusWord (BusWord.ofBits w)

/-- The bits `w` as the opcode table numbers them (bit 0 the least significant). A table row gives a request word 15
bits (16 in whole bytes) and a bus word 9. A 9-bit word is read as a bus word, any other as a request word, which
has no bit above 14 (log entry 4: in whole bytes the two formats are not told apart, and the port reads requests). -/
def codeWordOfTable (nbits w : Nat) : Option CodeWord :=
  if nbits = 9 then
    if w < 2 ^ 9 then some (.bus (BitVec.ofNat 9 w)) else none
  else if w < 2 ^ 15 then some (.req (BitVec.ofNat 15 w)) else none

def decodeTableWord (nbits w : Nat) : Option Instr :=
  match codeWordOfTable nbits w with
  | none => none
  | some c =>
    match decode c with
    | .ok i => some i
    | .error _ => none

/-- The request by which the host gets the table word `w` run: a request word as it is; a bus word's byte by the raw
transfer of its RS level (R79, R108, R109), since the port takes no bus words (log entry 4). -/
def requestOfTable (nbits w : Nat) : Request :=
  if nbits = 9 then
    { op := if w.testBit 8 then 0x1 else 0x0, flags := 0, arg := BitVec.ofNat 8 w }
  else Request.ofWord (BitVec.ofNat 15 w)

/-! ## The encoder -/

/-- The 8-bit argument of a pseudo-operation's operand: the byte itself (R160) or the code point (R161). -/
def CharOperand.arg : CharOperand → Byte
  | .byte v => BitVec.ofInt 8 v
  | .char c => BitVec.ofNat 8 c.toNat

/-- The request `SEND_DATA b` (R84, R109). -/
def sendDataRequest (b : Byte) : Request := { op := 0x1, flags := 0, arg := b }

/-- The words of an instruction: one request word (R70, R71), one bus word (R74), or the request words a
pseudo-operation expands to (R84). -/
def encode : Instr → List CodeWord
  | .sendCmd flags arg => [.req (Request.word ⟨0x0, flags, arg⟩)]
  | .sendData flags arg => [.req (Request.word ⟨0x1, flags, arg⟩)]
  | .clear flags arg => [.req (Request.word ⟨0x2, flags, arg⟩)]
  | .home flags arg => [.req (Request.word ⟨0x3, flags, arg⟩)]
  | .entryMode x i s arg => [.req (Request.word ⟨0x4, flags3 x i s, arg⟩)]
  | .displayCtrl d c b arg => [.req (Request.word ⟨0x5, flags3 d c b, arg⟩)]
  | .shift x t r arg => [.req (Request.word ⟨0x6, flags3 x t r, arg⟩)]
  | .functionSet w n f arg => [.req (Request.word ⟨0x7, flags3 w n f, arg⟩)]
  | .setCgram flags a => [.req (Request.word ⟨0x8, flags, a⟩)]
  | .setDdram flags a => [.req (Request.word ⟨0x9, flags, a⟩)]
  | .init flags arg => [.req (Request.word ⟨0xA, flags, arg⟩)]
  | .readFlag flags arg => [.req (Request.word ⟨0xB, flags, arg⟩)]
  | .readData flags arg => [.req (Request.word ⟨0xC, flags, arg⟩)]
  | .reservedD flags arg => [.req (Request.word ⟨0xD, flags, arg⟩)]
  | .reservedE flags arg => [.req (Request.word ⟨0xE, flags, arg⟩)]
  | .reservedF flags arg => [.req (Request.word ⟨0xF, flags, arg⟩)]
  | .busClear => [.bus 0b0_0000_0001]
  | .busHome => [.bus 0b0_0000_0010]
  | .busEntryModeSet i s => [.bus (0b0_0000_01#7 ++ BitVec.ofBool i ++ BitVec.ofBool s)]
  | .busDisplayControl d c b => [.bus (0b0_0000_1#6 ++ flags3 d c b)]
  | .busCursorDisplayShift t r => [.bus (0b0_0001#5 ++ BitVec.ofBool t ++ BitVec.ofBool r ++ 0b00#2)]
  | .busFunctionSet w n f => [.bus (0b0_001#4 ++ flags3 w n f ++ 0b00#2)]
  | .busSetCgramAddr a => [.bus (0b0_01#3 ++ a)]
  | .busSetDdramAddr a => [.bus (0b0_1#2 ++ a)]
  | .busData d => [.bus (0b1#1 ++ d)]
  | .writeChar c => [.req (Request.word (sendDataRequest c.arg))]
  | .writeString s => s.map fun c => .req (Request.word (sendDataRequest (CharOperand.arg (.char c))))

end Sys2Proof
end

