-- ==== Sys2Proof/Machine/Operands.lean ====
section
/-! DEFINITION. Operand assembly: the command byte of each family (`30_encoding.md` R74, R77, R78), and the argument
of a pseudo-operation (R160, R161). -/

namespace Sys2Proof.Machine

/-- One flag bit as a byte. -/
def bit (b : Bool) : Byte := if b then 1 else 0

/-- The family selector (R74). -/
def selector : Family → Byte
  | .clear => 0b0000_0001
  | .home => 0b0000_0010
  | .entryModeSet => 0b0000_0100
  | .displayControl => 0b0000_1000
  | .cursorDisplayShift => 0b0001_0000
  | .functionSet => 0b0010_0000
  | .setCgramAddr => 0b0100_0000
  | .setDdramAddr => 0b1000_0000

/-- A command byte is the selector ORed with the option or address bits (R17, R74). -/
def commandByte (f : Family) (options : Byte) : Byte := selector f ||| options

/-- R78: `(flags[1] << 1) | flags[0]` -/
def entryModeOptions (increment shift : Bool) : Byte := (bit increment <<< 1) ||| bit shift

/-- R78: `(flags[2] << 2) | (flags[1] << 1) | flags[0]` -/
def displayControlOptions (on cursor blink : Bool) : Byte := (bit on <<< 2) ||| (bit cursor <<< 1) ||| bit blink

/-- R78: `(flags[1] << 3) | (flags[0] << 2)` -/
def shiftOptions (display right : Bool) : Byte := (bit display <<< 3) ||| (bit right <<< 2)

/-- R78: `(flags[2] << 4) | (flags[1] << 3) | (flags[0] << 2)` -/
def functionSetOptions (eightBit twoLine fiveByTen : Bool) : Byte :=
  (bit eightBit <<< 4) ||| (bit twoLine <<< 3) ||| (bit fiveByTen <<< 2)

/-- R77: `arg & 0x3F`, masked silently -/
def cgramOperand (arg : Byte) : Byte := arg &&& 0x3F

/-- R77: `arg & 0x7F`, masked silently -/
def ddramOperand (arg : Byte) : Byte := arg &&& 0x7F

/-- A command is sent with RS = 0 (R50, R108). -/
def command (f : Family) (options : Byte) : BusWord := { rs := false, byte := commandByte f options }

/-- The argument the host puts on `req_arg` for a byte or character operand; one that does not fit is refused by the
host's assembler (R160, R161, D16, D17). -/
def charArg (c : CharOperand) : Except Refusal Byte :=
  match c with
  | .byte v => if (CharOperand.byte v).fits then .ok (CharOperand.byte v).arg else .error (.byteOutOfRange v)
  | .char c => if (CharOperand.char c).fits then .ok (CharOperand.char c).arg else .error (.codePointTooLarge c)

/-- WRITE_CHAR's one request (R84). -/
def charRequest (c : CharOperand) : Except Refusal Request :=
  match charArg c with
  | .ok b => .ok (sendDataRequest b)
  | .error e => .error e

/-- WRITE_STRING's requests, one per character, in order (R162); the empty string gives none. -/
def stringRequests : List Char → Except Refusal (List Request)
  | [] => .ok []
  | c :: cs =>
    match charRequest (.char c), stringRequests cs with
    | .ok r, .ok rs => .ok (r :: rs)
    | .error e, _ => .error e
    | .ok _, .error e => .error e

end Sys2Proof.Machine
end

