-- ==== Sys2Proof/Machine/Ops.lean ====
section
/-! DEFINITION. The shared operations: the bus primitives, the sequencer's phases, acceptance, reset
(`40_bus_primitives.md` R100 to R106, `70_reset_and_hazards.md` R220), and the output ports (`10_state.md` R31, R33).
Taking an exception is here raising an error (`60_exceptions.md` R201): the block has no other (R210), and no
return from one (R211). -/

namespace Sys2Proof.Machine

/-! ## Output ports -/

/-- Register-Select line (R31) -/
def State.lcdRs (s : State) : Bool := s.rsQ

/-- Enable line (R31) -/
def State.lcdE (s : State) : Bool := s.eQ

/-- line D`i` (R31, R100) -/
def State.lcdD (s : State) (i : Fin 8) : Bool := s.dQ.getLsbD i

/-- `req_ready = (phase == IDLE)` (R33) -/
def State.reqReady (s : State) : Bool := decide (s.phase = .idle)

/-- The bus word on the lines. -/
def State.busWord (s : State) : BusWord := { rs := s.rsQ, byte := s.dQ }

/-! ## Bus primitives -/

/-- The "set data bus" primitive (R100). -/
def State.setBus (v : Byte) (s : State) : State := { s with dQ := v }

/-- Enter a phase, with the timer loaded with its length minus one (R25). -/
def State.enterPhase (ph : Phase) (length : Nat) (s : State) : State :=
  { s with phase := ph, timer := length - 1 }

/-- `Emit(rs, byte)`: start one transaction (R101). It never writes `e_q`. -/
def State.emit (w : BusWord) (s : State) : State :=
  State.enterPhase .setup s.params.tSetup (State.setBus w.byte { s with rsQ := w.rs })

/-- `INIT_WORDS` (R37, R163): CLEAR, FUNCTION-SET(8-bit, 2-line, 5x8), DISPLAY-CONTROL(on, cursor-on, blink-on),
ENTRY-MODE-SET(increment, no-shift). -/
def initWord (k : Fin 4) : BusWord :=
  match k.val with
  | 0 => { rs := false, byte := 0x01 }
  | 1 => { rs := false, byte := 0x38 }
  | 2 => { rs := false, byte := 0x0F }
  | _ => { rs := false, byte := 0x06 }

/-! ## The enable-pulse timer -/

/-- An edge with `timer != 0` decrements it and changes nothing else (R25, R101). -/
def State.countDown (s : State) : State := { s with timer := s.timer - 1 }

/-- An edge in phase SETUP (R102). -/
def State.setupEdge (s : State) : State :=
  if s.timer = 0 then State.enterPhase .pulse s.params.tHold { s with eQ := true }
  else s.countDown

/-- An edge in phase PULSE; the falling edge of E logs the latched word (R103, R105). -/
def State.pulseEdge (s : State) : State :=
  if s.timer = 0 then
    State.enterPhase .gap s.params.tGap { s with eQ := false, log := s.log ++ [.latched s.rsQ s.dQ] }
  else s.countDown

/-- INIT has a further step (R104). -/
def State.seqContinues (s : State) : Bool := s.seqActive && decide (s.seqIdx ≠ 3)

/-- The end of phase GAP: the next INIT word without passing through IDLE, or IDLE (R104). -/
def State.gapEnd (s : State) : State :=
  if s.seqContinues then { State.emit (initWord (s.seqIdx + 1)) s with seqIdx := s.seqIdx + 1 }
  else { s with phase := .idle, seqActive := false, seqIdx := 0 }

/-- An edge in phase GAP (R104). -/
def State.gapEdge (s : State) : State := if s.timer = 0 then s.gapEnd else s.countDown

/-- One rising edge with `rst = 0`, where `onIdle` is what the block does in IDLE (R101). -/
def State.edge (onIdle : State → State) (s : State) : State :=
  match s.phase with
  | .idle => onIdle s
  | .setup => s.setupEdge
  | .pulse => s.pulseEdge
  | .gap => s.gapEdge

/-! ## Acceptance -/

/-- What a request asks for: one bus word, the INIT sequence, or an error (R107). -/
inductive Decoded where
  | word (w : BusWord)
  | initSeq
  | error (code : BitVec 2)
  deriving DecidableEq, Repr

/-- `Accept` (R106). -/
def State.accept (o : Decoded) (s : State) : State :=
  match o with
  | .error code => s.raise code
  | .word w => s.writeOk.emit w
  | .initSeq => State.emit (initWord 0) { s.writeOk with seqActive := true, seqIdx := 0 }

/-- One rising edge, with `rst = 0`, at which the host presents a request that asks for `o`: accepted in IDLE (R106);
while the block is busy the request is neither sampled nor stored, and the phase goes on (R112). -/
def State.present (o : Decoded) (s : State) : State := s.edge (State.accept o)

/-- One rising edge, with `rst = 0`, at which the bus word `w` is due. `Emit` is called only from IDLE or from the end
of GAP (R101); before that the transaction in progress goes on ("no interleaving of two pulses", R103, R104). -/
def State.startWord (w : BusWord) (s : State) : State :=
  if s.phase = .idle ∨ (s.phase = .gap ∧ s.timer = 0) then s.emit w else s.edge id

/-! ## Reset -/

/-- A rising edge with `rst = 1` (R220). A pulse that is high is cut short and logged as truncated (R222). -/
def State.resetEdge (s : State) : State :=
  { s with
    log := if s.eQ then s.log ++ [.truncated s.rsQ s.dQ (s.params.tHold - s.timer)] else s.log
    rsQ := false, eQ := false, dQ := 0x00, phase := .idle, timer := 0, seqActive := false, seqIdx := 0,
    errCode := errOk, errSticky := false }

/-! ## The host's requests -/

/-- What the host does from now on; the block is unchanged. -/
def State.setHost (moves : List HostMove) (s : State) : State := { s with host := moves }

/-- The host takes up these requests, in order, before what it was going to do next (R84, R162). -/
def State.queueRequests (rs : List Request) (s : State) : State := s.setHost (rs.map HostMove.request ++ s.host)

end Sys2Proof.Machine
end

