-- ==== Sys2Proof/Machine/BusWords.lean ====
section
/-! DEFINITION. The bus words of the opcode table: each is the start of one transaction that carries it (`30_encoding.md` R74,
`40_bus_primitives.md` R101). The block runs them from the `INIT_WORDS` table and on acceptance of a request. -/

namespace Sys2Proof.Machine

/-- R131 -/
def execBusClear (s : State) : Host.Outcome State Fault Refusal :=
  .next (s.startWord (command .clear 0))

/-- R132 -/
def execBusHome (s : State) : Host.Outcome State Fault Refusal :=
  .next (s.startWord (command .home 0))

/-- R133 -/
def execBusEntryModeSet (increment shift : Bool) (s : State) : Host.Outcome State Fault Refusal :=
  .next (s.startWord (command .entryModeSet (entryModeOptions increment shift)))

/-- R134 -/
def execBusDisplayControl (on cursor blink : Bool) (s : State) : Host.Outcome State Fault Refusal :=
  .next (s.startWord (command .displayControl (displayControlOptions on cursor blink)))

/-- R135 -/
def execBusCursorDisplayShift (display right : Bool) (s : State) : Host.Outcome State Fault Refusal :=
  .next (s.startWord (command .cursorDisplayShift (shiftOptions display right)))

/-- R136 -/
def execBusFunctionSet (eightBit twoLine fiveByTen : Bool) (s : State) : Host.Outcome State Fault Refusal :=
  .next (s.startWord (command .functionSet (functionSetOptions eightBit twoLine fiveByTen)))

/-- R137 -/
def execBusSetCgramAddr (address : BitVec 6) (s : State) : Host.Outcome State Fault Refusal :=
  .next (s.startWord (command .setCgramAddr (address.setWidth 8)))

/-- R138 -/
def execBusSetDdramAddr (address : BitVec 7) (s : State) : Host.Outcome State Fault Refusal :=
  .next (s.startWord (command .setDdramAddr (address.setWidth 8)))

/-- R109 -/
def execBusData (data : Byte) (s : State) : Host.Outcome State Fault Refusal :=
  .next (s.startWord { rs := true, byte := data })

end Sys2Proof.Machine
end

