-- ==== Sys2Proof/Machine/Composed.lean ====
section
/-! DEFINITION. The eight composed commands: compose a command byte, send it with RS low (`41_commands.md` R130 to R138). -/

namespace Sys2Proof.Machine

/-- R131 -/
def execClear (_flags : BitVec 3) (_arg : Byte) (s : State) : Host.Outcome State Fault Refusal :=
  .next (s.present (.word (command .clear 0)))

/-- R132 -/
def execHome (_flags : BitVec 3) (_arg : Byte) (s : State) : Host.Outcome State Fault Refusal :=
  .next (s.present (.word (command .home 0)))

/-- R133 -/
def execEntryMode (_ignored increment shift : Bool) (_arg : Byte) (s : State) : Host.Outcome State Fault Refusal :=
  .next (s.present (.word (command .entryModeSet (entryModeOptions increment shift))))

/-- R134 -/
def execDisplayCtrl (on cursor blink : Bool) (_arg : Byte) (s : State) : Host.Outcome State Fault Refusal :=
  .next (s.present (.word (command .displayControl (displayControlOptions on cursor blink))))

/-- R135 -/
def execShift (_ignored display right : Bool) (_arg : Byte) (s : State) : Host.Outcome State Fault Refusal :=
  .next (s.present (.word (command .cursorDisplayShift (shiftOptions display right))))

/-- R136 -/
def execFunctionSet (eightBit twoLine fiveByTen : Bool) (_arg : Byte) (s : State) : Host.Outcome State Fault Refusal :=
  .next (s.present (.word (command .functionSet (functionSetOptions eightBit twoLine fiveByTen))))

/-- R137 -/
def execSetCgram (_flags : BitVec 3) (address : Byte) (s : State) : Host.Outcome State Fault Refusal :=
  .next (s.present (.word (command .setCgramAddr (cgramOperand address))))

/-- R138 -/
def execSetDdram (_flags : BitVec 3) (address : Byte) (s : State) : Host.Outcome State Fault Refusal :=
  .next (s.present (.word (command .setDdramAddr (ddramOperand address))))

end Sys2Proof.Machine
end

