-- ==== Sys2Proof/Machine/Pseudo.lean ====
section
/-! DEFINITION. The host-level pseudo-operations (`30_encoding.md` R84, `42_data_and_sequences.md` R160 to R162). Each
expands to SEND_DATA requests, which the host then presents one at a time, each until it is accepted. The expansion
itself takes no clock edge; an operand that does not fit the port is refused by the host's assembler (D16, D17). -/

namespace Sys2Proof.Machine

/-- R160, R161 -/
def execWriteChar (c : CharOperand) (s : State) : Host.Outcome State Fault Refusal :=
  match charRequest c with
  | .ok r => .next (s.queueRequests [r])
  | .error e => .refused e

/-- R162 -/
def execWriteString (cs : List Char) (s : State) : Host.Outcome State Fault Refusal :=
  match stringRequests cs with
  | .ok rs => .next (s.queueRequests rs)
  | .error e => .refused e

end Sys2Proof.Machine
end

