-- ==== Sys2Proof/Machine/Sequence.lean ====
section
/-! DEFINITION. INIT, the reads and the reserved opcodes (`42_data_and_sequences.md` R163 to R167). -/

namespace Sys2Proof.Machine

/-- R163: the four words of `INIT_WORDS`, of which acceptance emits the first and each end of GAP the next (R104, R164). -/
def execInit (_flags : BitVec 3) (_arg : Byte) (s : State) : Host.Outcome State Fault Refusal :=
  .next (s.present .initSeq)

/-- R165: no transaction; the error UNSUPPORTED (R202). -/
def execReadFlag (_flags : BitVec 3) (_arg : Byte) (s : State) : Host.Outcome State Fault Refusal :=
  .next (s.present (.error errUnsupported))

/-- R166: no transaction; the error UNSUPPORTED (R202). -/
def execReadData (_flags : BitVec 3) (_arg : Byte) (s : State) : Host.Outcome State Fault Refusal :=
  .next (s.present (.error errUnsupported))

/-- R167: no transaction; the error RESERVED (R203). -/
def execReservedD (_flags : BitVec 3) (_arg : Byte) (s : State) : Host.Outcome State Fault Refusal :=
  .next (s.present (.error errReserved))

/-- R167: no transaction; the error RESERVED (R203). -/
def execReservedE (_flags : BitVec 3) (_arg : Byte) (s : State) : Host.Outcome State Fault Refusal :=
  .next (s.present (.error errReserved))

/-- R167: no transaction; the error RESERVED (R203). -/
def execReservedF (_flags : BitVec 3) (_arg : Byte) (s : State) : Host.Outcome State Fault Refusal :=
  .next (s.present (.error errReserved))

end Sys2Proof.Machine
end

