-- ==== Sys2Proof/Machine/Transfer.lean ====
section
/-! DEFINITION. The two raw transfers: SEND_CMD and SEND_DATA (`40_bus_primitives.md` R108, R109). -/

namespace Sys2Proof.Machine

/-- R108: the byte is taken whole (R79), with RS low. -/
def execSendCmd (_flags : BitVec 3) (arg : Byte) (s : State) : Host.Outcome State Fault Refusal :=
  .next (s.present (.word { rs := false, byte := arg }))

/-- R109: the byte is taken whole (R79), with RS high. -/
def execSendData (_flags : BitVec 3) (arg : Byte) (s : State) : Host.Outcome State Fault Refusal :=
  .next (s.present (.word { rs := true, byte := arg }))

end Sys2Proof.Machine
end

