-- ==== Sys2Proof/Machine/Dispatch.lean ====
section
/-! DEFINITION. The meaning of each instruction, one arm per constructor. A request's meaning is one rising edge of
`clk`, with `rst = 0`, at which the host presents it (R106, R112); a bus word's, one at which it is due (R101); a
pseudo-operation's, the host's expansion of it (R84). -/

namespace Sys2Proof.Machine

def exec (i : Instr) (s : State) : Host.Outcome State Fault Refusal :=
  match i with
  | .sendCmd flags arg => Sys2Proof.Machine.execSendCmd flags arg s
  | .sendData flags arg => Sys2Proof.Machine.execSendData flags arg s
  | .clear flags arg => Sys2Proof.Machine.execClear flags arg s
  | .home flags arg => Sys2Proof.Machine.execHome flags arg s
  | .entryMode ignored increment shift arg => Sys2Proof.Machine.execEntryMode ignored increment shift arg s
  | .displayCtrl on cursor blink arg => Sys2Proof.Machine.execDisplayCtrl on cursor blink arg s
  | .shift ignored display right arg => Sys2Proof.Machine.execShift ignored display right arg s
  | .functionSet eightBit twoLine fiveByTen arg => Sys2Proof.Machine.execFunctionSet eightBit twoLine fiveByTen arg s
  | .setCgram flags address => Sys2Proof.Machine.execSetCgram flags address s
  | .setDdram flags address => Sys2Proof.Machine.execSetDdram flags address s
  | .init flags arg => Sys2Proof.Machine.execInit flags arg s
  | .readFlag flags arg => Sys2Proof.Machine.execReadFlag flags arg s
  | .readData flags arg => Sys2Proof.Machine.execReadData flags arg s
  | .reservedD flags arg => Sys2Proof.Machine.execReservedD flags arg s
  | .reservedE flags arg => Sys2Proof.Machine.execReservedE flags arg s
  | .reservedF flags arg => Sys2Proof.Machine.execReservedF flags arg s
  | .busClear => Sys2Proof.Machine.execBusClear s
  | .busHome => Sys2Proof.Machine.execBusHome s
  | .busEntryModeSet increment shift => Sys2Proof.Machine.execBusEntryModeSet increment shift s
  | .busDisplayControl on cursor blink => Sys2Proof.Machine.execBusDisplayControl on cursor blink s
  | .busCursorDisplayShift display right => Sys2Proof.Machine.execBusCursorDisplayShift display right s
  | .busFunctionSet eightBit twoLine fiveByTen => Sys2Proof.Machine.execBusFunctionSet eightBit twoLine fiveByTen s
  | .busSetCgramAddr address => Sys2Proof.Machine.execBusSetCgramAddr address s
  | .busSetDdramAddr address => Sys2Proof.Machine.execBusSetDdramAddr address s
  | .busData data => Sys2Proof.Machine.execBusData data s
  | .writeChar c => Sys2Proof.Machine.execWriteChar c s
  | .writeString cs => Sys2Proof.Machine.execWriteString cs s

end Sys2Proof.Machine
end

