-- ==== Sys2Proof/Machine/HostSide.lean ====
section
/-! DEFINITION. The host's side of the request port (`00_scope.md` R19, `10_state.md` R32, `40_bus_primitives.md`
R106, R112): what the host's moves put on the input ports in the current cycle, and which moves are left after the
edge that ends it. -/

namespace Sys2Proof.Machine

/-- No reset and no request. DESIGN CHOICE (log entry 2): what the host drives after its listed moves. -/
def Ports.quiet : Ports := { rst := false, reqValid := false, req := { op := 0, flags := 0, arg := 0 } }

/-- The host presents a request (R32). -/
def Ports.presenting (r : Request) : Ports := { rst := false, reqValid := true, req := r }

/-- A request is accepted at this edge: `rst == 0`, `req_valid == 1`, `phase == IDLE` (R106). -/
def Ports.accepts (p : Ports) (s : State) : Bool := !p.rst && p.reqValid && s.reqReady

/-- What an edge does with the request port: it resets the block, accepts a request, or neither (R106, R209). -/
inductive PortEvent where
  | reset
  | accepted (r : Request)
  | nothing
  deriving DecidableEq, Repr

def Ports.event (p : Ports) (s : State) : PortEvent :=
  if p.rst then .reset else if p.accepts s then .accepted p.req else .nothing

/-- The host's assembler lets the move pass: a pseudo-operation has fitting operands (R160, R161, D16, D17, U10). -/
def HostMove.fits : HostMove → Bool
  | .drive _ => true
  | .request _ => true
  | .writeChar c => (Instr.writeChar c).wellFormed
  | .writeString cs => (Instr.writeString cs).wellFormed

/-- The levels of the current cycle, and the moves left after its edge: when that edge accepts the request presented,
and when it does not. -/
structure Driven where
  ports : Ports
  onAccept : List HostMove
  onWait : List HostMove
  deriving DecidableEq, Repr

/-- The host presents the requests `r :: rs` in order, each until it is accepted (R112, R162). -/
def Driven.requests (r : Request) (rs : List Request) (rest : List HostMove) : Driven :=
  { ports := Ports.presenting r
    onAccept := rs.map HostMove.request ++ rest
    onWait := (r :: rs).map HostMove.request ++ rest }

/-- What the head of the host's moves drives. A pseudo-operation is expanded as it comes up (R84); the empty string
expands to no request (R162), so the host goes on with its next move. -/
def drivenBy : List HostMove → Except Refusal Driven
  | [] => .ok { ports := Ports.quiet, onAccept := [], onWait := [] }
  | .drive p :: rest => .ok { ports := p, onAccept := rest, onWait := rest }
  | .request r :: rest => .ok (Driven.requests r [] rest)
  | .writeChar c :: rest =>
    match charRequest c with
    | .ok r => .ok (Driven.requests r [] rest)
    | .error e => .error e
  | .writeString cs :: rest =>
    match stringRequests cs with
    | .ok [] => drivenBy rest
    | .ok (r :: rs) => .ok (Driven.requests r rs rest)
    | .error e => .error e

/-- The moves left after the edge. -/
def Driven.left (d : Driven) (s : State) : List HostMove := if d.ports.accepts s then d.onAccept else d.onWait

/-- The outcome of an edge, with the moves the host has left. -/
def withHost (host : List HostMove) : Host.Outcome State Fault Refusal → Host.Outcome State Fault Refusal
  | .next t => .next (t.setHost host)
  | .fault r => .fault r
  | .refused r => .refused r

end Sys2Proof.Machine
end

