-- ==== Sys2Proof/Machine/Clock.lean ====
section
/-! DEFINITION. One rising edge of `clk` (`40_bus_primitives.md` R101), and the placing of a word where the next edge
finds it. -/

namespace Sys2Proof.Machine

/-- The step function of the block, with the input ports as sampled at the edge (R101). Reset wins (R209); a request
presented is run by the meaning of the instruction it decodes to; otherwise only the phase goes on. -/
def clockEdge (p : Ports) (s : State) : Host.Outcome State Fault Refusal :=
  if p.rst then .next s.resetEdge
  else if p.reqValid then exec (decodeRequest p.req) s
  else .next (s.edge id)

/-- One rising edge with the levels the host drives, after which the host goes on with what is left of its moves. -/
def hostedEdge (s : State) : Host.Outcome State Fault Refusal :=
  match drivenBy s.host with
  | .ok d => withHost (d.left s) (clockEdge d.ports s)
  | .error e => .refused e

/-- The host presents the table word first, before its other moves (log entry 5). -/
def State.presentFirst (s : State) (nbits w : Nat) : State :=
  s.setHost (.request (requestOfTable nbits w) :: s.host)

end Sys2Proof.Machine
end

