-- ==== Sys2Proof/Machine/Step.lean ====
section
/-! DEFINITION. One step is one rising edge of `clk` (`00_scope.md` R16, R19). -/

namespace Sys2Proof.Machine

def step (s : State) : Host.Outcome State Fault Refusal := hostedEdge s

/-- The state with the table word `w` where the next step takes its instruction from: at the head of what the host
presents (log entry 5). -/
def State.withFetchWord (s : State) (nbits w : Nat) : State := s.presentFirst nbits w

end Sys2Proof.Machine
end

