-- ==== Sys2Proof/Machine/Assembler.lean ====
section
/-! DEFINITION. The host's assembler: the syntax of `30_encoding.md` R83 and the pseudo-operations of R84. One line is
a mnemonic and its operands, separated by commas. Numerals are those of `00_scope.md` R14. What the spec leaves open of
the text (spaces, quotes inside quotes) is log entry 6. -/

namespace Sys2Proof.Machine

/-- Why a line is refused. -/
inductive AsmError where
  /-- a quote that does not close, or a character literal of other than one character -/
  | badLiteral
  /-- a line that does not begin with a mnemonic of R83 or R84; the reserved opcodes have none (U9) -/
  | unknownMnemonic
  /-- not exactly the listed operands, in the listed order (R83) -/
  | badOperands
  /-- a number outside 0..255 (R83, U10) -/
  | outOfRange (n : Nat)
  /-- a character with code point above 0xFF (R83, D17, U10) -/
  | codePointTooLarge (c : Char)
  deriving DecidableEq, Repr

inductive Token where
  | word (w : String)
  | comma
  | char (c : Char)
  | string (s : List Char)
  deriving DecidableEq, Repr

/-! ## Tokens -/

/-- Where in a line the lexer stands; what a word or string holds so far is kept last character first. -/
inductive LexMode where
  | between
  | inWord (acc : List Char)
  | charOpen
  | charClose (c : Char)
  | inString (acc : List Char)
  deriving DecidableEq, Repr

def apostrophe : Char := Char.ofNat 39

def doubleQuote : Char := Char.ofNat 34

def wordToken (acc : List Char) : Token := .word (String.ofList acc.reverse)

/-- The mode after a character that begins a new token, or separates tokens; `none` for a comma. An apostrophe or a
double quote ends a word, so a quoted operand may follow its mnemonic with no space: PRESUMED (log entry 6), since R83
does not say. -/
def beginToken (c : Char) : Option LexMode :=
  if c = ',' then none
  else if c = ' ' then some .between
  else if c = apostrophe then some .charOpen
  else if c = doubleQuote then some (.inString [])
  else some (.inWord [c])

def cons (t : Token) : Except AsmError (List Token) → Except AsmError (List Token)
  | .ok ts => .ok (t :: ts)
  | .error e => .error e

def lex : LexMode → List Char → Except AsmError (List Token)
  | .between, [] => .ok []
  | .inWord acc, [] => .ok [wordToken acc]
  | .charOpen, [] => .error .badLiteral
  | .charClose _, [] => .error .badLiteral
  | .inString _, [] => .error .badLiteral
  | .between, c :: cs =>
    match beginToken c with
    | none => cons .comma (lex .between cs)
    | some m => lex m cs
  | .inWord acc, c :: cs =>
    match beginToken c with
    | none => cons (wordToken acc) (cons .comma (lex .between cs))
    | some (.inWord _) => lex (.inWord (c :: acc)) cs
    | some m => cons (wordToken acc) (lex m cs)
  | .charOpen, c :: cs => lex (.charClose c) cs
  | .charClose c, d :: cs => if d = apostrophe then cons (.char c) (lex .between cs) else .error .badLiteral
  | .inString acc, c :: cs =>
    if c = doubleQuote then cons (.string acc.reverse) (lex .between cs) else lex (.inString (c :: acc)) cs

/-! ## Numerals -/

/-- The value of a hexadecimal digit. -/
def digit (c : Char) : Option Nat :=
  if '0' ≤ c ∧ c ≤ '9' then some (c.toNat - 48)
  else if 'a' ≤ c ∧ c ≤ 'f' then some (c.toNat - 87)
  else if 'A' ≤ c ∧ c ≤ 'F' then some (c.toNat - 55)
  else none

/-- Digits in a base, with `_` as a separator only (R14); `seen` says that a digit has come. -/
def digits (base : Nat) : Bool → Nat → List Char → Option Nat
  | seen, n, [] => if seen then some n else none
  | seen, n, c :: cs =>
    if c = '_' then digits base seen n cs
    else
      match digit c with
      | none => none
      | some d => if d < base then digits base true (n * base + d) cs else none

/-- `0x..` is hexadecimal, `0b..` binary, anything else decimal (R14). -/
def numeral : List Char → Option Nat
  | '0' :: 'x' :: cs => digits 16 false 0 cs
  | '0' :: 'b' :: cs => digits 2 false 0 cs
  | cs => digits 10 false 0 cs

/-! ## Lines -/

/-- The operands of a line, with exactly one comma between two. -/
def operands : List Token → Option (List Token)
  | [] => some []
  | [.comma] => none
  | [t] => some [t]
  | t :: .comma :: t' :: ts =>
    match t with
    | .comma => none
    | _ => (operands (t' :: ts)).map (t :: ·)
  | _ => none

/-- A `<byte>` or `<address>`: a numeral from 0 to 255, or a character with code point at most 0xFF (R83). -/
def byteOperand : Token → Except AsmError Byte
  | .word w =>
    match numeral w.toList with
    | none => .error .badOperands
    | some n => if n ≤ 255 then .ok (BitVec.ofNat 8 n) else .error (.outOfRange n)
  | .char c => if c.toNat ≤ 0xFF then .ok (BitVec.ofNat 8 c.toNat) else .error (.codePointTooLarge c)
  | .comma => .error .badOperands
  | .string _ => .error .badOperands

/-- An option keyword: `one` selects 1, `zero` selects 0 (R72, R83). -/
def option (one zero : String) : Token → Option Bool
  | .word w => if w = one then some true else if w = zero then some false else none
  | .comma => none
  | .char _ => none
  | .string _ => none

/-- The request of an opcode with option flags; absent bits are assembled as 0 (R73, R83). -/
def flagRequest (op : BitVec 4) (b2 b1 b0 : Option Bool) : Except AsmError HostMove :=
  match b2, b1, b0 with
  | some x, some y, some z => .ok (.request { op := op, flags := flags3 x y z, arg := 0 })
  | _, _, _ => .error .badOperands

def byteRequest (op : BitVec 4) (t : Token) : Except AsmError HostMove :=
  match byteOperand t with
  | .ok b => .ok (.request { op := op, flags := 0, arg := b })
  | .error e => .error e

def plainRequest (op : BitVec 4) : Except AsmError HostMove := .ok (.request { op := op, flags := 0, arg := 0 })

/-- WRITE_CHAR and WRITE_STRING, once their operands are known to fit (R84, D16, D17). -/
def writeCharMove (c : CharOperand) (e : AsmError) : Except AsmError HostMove :=
  if c.fits then .ok (.writeChar c) else .error e

def writeStringMove (cs : List Char) : Except AsmError HostMove :=
  match cs.find? fun c => !(CharOperand.char c).fits with
  | some c => .error (.codePointTooLarge c)
  | none => .ok (.writeString cs)

/-- The mnemonics of R83 and R84, by the operands they take. -/
inductive Mnemonic where
  /-- one byte or address -/
  | byteOp (op : BitVec 4)
  /-- no operand -/
  | plainOp (op : BitVec 4)
  | entryMode
  | displayCtrl
  | shift
  | functionSet
  | writeChar
  | writeString
  deriving DecidableEq, Repr

/-- The words of R83 and R84, with the opcodes of R71. -/
def mnemonics : List (String × Mnemonic) :=
  [("SEND_CMD", .byteOp 0x0), ("SEND_DATA", .byteOp 0x1), ("CLEAR", .plainOp 0x2), ("HOME", .plainOp 0x3),
   ("ENTRY_MODE", .entryMode), ("DISPLAY_CTRL", .displayCtrl), ("SHIFT", .shift), ("FUNCTION_SET", .functionSet),
   ("SET_CGRAM", .byteOp 0x8), ("SET_DDRAM", .byteOp 0x9), ("INIT", .plainOp 0xA), ("READ_FLAG", .plainOp 0xB),
   ("READ_DATA", .plainOp 0xC), ("WRITE_CHAR", .writeChar), ("WRITE_STRING", .writeString)]

/-- WRITE_CHAR takes a character literal or a numeral (R84). -/
def assembleWriteChar : Token → Except AsmError HostMove
  | .char c => writeCharMove (.char c) (.codePointTooLarge c)
  | .word w =>
    match numeral w.toList with
    | some n => writeCharMove (.byte n) (.outOfRange n)
    | none => .error .badOperands
  | .comma => .error .badOperands
  | .string _ => .error .badOperands

/-- One line's move, from its mnemonic and its operands (R83, R84). -/
def assembleParts : Mnemonic → List Token → Except AsmError HostMove
  | .byteOp op, [t] => byteRequest op t
  | .plainOp op, [] => plainRequest op
  | .entryMode, [i, s] => flagRequest 0x4 (some false) (option "inc" "dec" i) (option "shift" "noshift" s)
  | .displayCtrl, [d, c, b] =>
    flagRequest 0x5 (option "on" "off" d) (option "cursor" "nocursor" c) (option "blink" "noblink" b)
  | .shift, [t, r] => flagRequest 0x6 (some false) (option "display" "cursor" t) (option "right" "left" r)
  | .functionSet, [w, n, f] =>
    flagRequest 0x7 (option "8bit" "4bit" w) (option "2line" "1line" n) (option "5x10" "5x8" f)
  | .writeChar, [t] => assembleWriteChar t
  | .writeString, [.string cs] => writeStringMove cs
  | _, _ => .error .badOperands

def assembleLine (line : List Char) : Except AsmError HostMove :=
  match lex .between line with
  | .error e => .error e
  | .ok (.word w :: ts) =>
    match mnemonics.lookup w, operands ts with
    | some m, some ops => assembleParts m ops
    | none, _ => .error .unknownMnemonic
    | some _, none => .error .badOperands
  | .ok _ => .error .unknownMnemonic

/-- A program is one line per operation, in order (R83); the first line refused refuses it. -/
def assemble : List (List Char) → Except AsmError (List HostMove)
  | [] => .ok []
  | line :: lines =>
    match assembleLine line, assemble lines with
    | .ok m, .ok ms => .ok (m :: ms)
    | .error e, _ => .error e
    | .ok _, .error e => .error e

/-- The host carries the moves out after those it already has. -/
def State.loadMoves (ms : List HostMove) (s : State) : State := s.setHost (s.host ++ ms)

end Sys2Proof.Machine
end

