-- ==== Sys2Proof/Safety.lean ====
section
/-! DEFINITION. What counts as a good state and a safe run: the invariants of `10_state.md` R38, what the log lets a
reader conclude of the controller (R222, R227, U2 to U5), the timing conditions of the build (R225, R226, R229), and
the boot order of the host (R224). -/

namespace Sys2Proof.Machine

/-! ## Invariants -/

/-- The invariants of every reachable state after the first reset, as R38 lists them. -/
structure Inv (s : State) : Prop where
  /-- (a) -/
  enable_iff_pulse : s.eQ = true ↔ s.phase = .pulse
  /-- (b) -/
  setup_timer : s.phase = .setup → s.timer ≤ s.params.tSetup - 1
  /-- (b) -/
  pulse_timer : s.phase = .pulse → s.timer ≤ s.params.tHold - 1
  /-- (b) -/
  gap_timer : s.phase = .gap → s.timer ≤ s.params.tGap - 1
  /-- (c) -/
  idx_of_inactive : s.seqActive = false → s.seqIdx = 0
  /-- (d) -/
  inactive_of_idle : s.phase = .idle → s.seqActive = false
  /-- (e) -/
  word_of_active : s.seqActive = true → s.busWord = initWord s.seqIdx
  /-- (f) -/
  code_legal : s.errCode ≠ 0b11
  /-- (g) -/
  sticky_of_code : s.errCode ≠ errOk → s.errSticky = true

/-- The timer fits its `W_T` bits (R11, R25). -/
def TimerFits (s : State) : Prop := s.timer < 2 ^ s.params.timerWidth

/-! ## What an instruction puts on the bus -/

/-- The bus words of an instruction, written from the patterns of R74 (the meanings assemble them by the shifts of
R78): those an accepted request sends (R107, R163; none where it raises an error), a bus word itself, or those of the
requests a pseudo-operation expands to (R84). -/
def busWords : Instr → List BusWord
  | .sendCmd _ arg => [⟨false, arg⟩]
  | .sendData _ arg => [⟨true, arg⟩]
  | .clear _ _ => [⟨false, 0b0000_0001⟩]
  | .home _ _ => [⟨false, 0b0000_0010⟩]
  | .entryMode _ i s _ => [⟨false, 0b0000_01#6 ++ BitVec.ofBool i ++ BitVec.ofBool s⟩]
  | .displayCtrl d c b _ => [⟨false, 0b0000_1#5 ++ BitVec.ofBool d ++ BitVec.ofBool c ++ BitVec.ofBool b⟩]
  | .shift _ t r _ => [⟨false, 0b0001#4 ++ BitVec.ofBool t ++ BitVec.ofBool r ++ 0b00#2⟩]
  | .functionSet w n f _ =>
    [⟨false, 0b001#3 ++ BitVec.ofBool w ++ BitVec.ofBool n ++ BitVec.ofBool f ++ 0b00#2⟩]
  | .setCgram _ a => [⟨false, 0b01#2 ++ a.extractLsb' 0 6⟩]
  | .setDdram _ a => [⟨false, 0b1#1 ++ a.extractLsb' 0 7⟩]
  | .init _ _ => [⟨false, 0x01⟩, ⟨false, 0x38⟩, ⟨false, 0x0F⟩, ⟨false, 0x06⟩]
  | .readFlag _ _ => []
  | .readData _ _ => []
  | .reservedD _ _ => []
  | .reservedE _ _ => []
  | .reservedF _ _ => []
  | .busClear => [⟨false, 0b0000_0001⟩]
  | .busHome => [⟨false, 0b0000_0010⟩]
  | .busEntryModeSet i s => [⟨false, 0b0000_01#6 ++ BitVec.ofBool i ++ BitVec.ofBool s⟩]
  | .busDisplayControl d c b => [⟨false, 0b0000_1#5 ++ BitVec.ofBool d ++ BitVec.ofBool c ++ BitVec.ofBool b⟩]
  | .busCursorDisplayShift t r => [⟨false, 0b0001#4 ++ BitVec.ofBool t ++ BitVec.ofBool r ++ 0b00#2⟩]
  | .busFunctionSet w n f =>
    [⟨false, 0b001#3 ++ BitVec.ofBool w ++ BitVec.ofBool n ++ BitVec.ofBool f ++ 0b00#2⟩]
  | .busSetCgramAddr a => [⟨false, 0b01#2 ++ a⟩]
  | .busSetDdramAddr a => [⟨false, 0b1#1 ++ a⟩]
  | .busData d => [⟨true, d⟩]
  | .writeChar c => [⟨true, c.arg⟩]
  | .writeString s => s.map fun c => ⟨true, (CharOperand.char c).arg⟩

/-- The event of a word whose pulse ended normally (R36). -/
def latchedEvent (w : BusWord) : Event := .latched w.rs w.byte

/-! ## Reading the log -/

/-- What the controller may have received by an event; `none` is nothing. A truncated pulse is a draw of three: the
word, the reset word `{0, 0x00}`, or nothing (R222, U5). -/
def Event.receipts : Event → List (Option BusWord)
  | .latched rs byte => [some { rs := rs, byte := byte }]
  | .truncated rs byte _ => [some { rs := rs, byte := byte }, some { rs := false, byte := 0x00 }, none]

/-- The word carries one of the documented forms of R74; the controller's effect of any other is unknown (R81, U2). -/
def documentedWord (w : BusWord) : Bool :=
  match decodeBusWord w with
  | .ok _ => true
  | .error _ => false

/-- A DDRAM address inside the documented sub-ranges of the two lines (R51, U3). -/
def ddramDocumented (a : BitVec 7) : Bool := decide (a.toNat ≤ 0x27 ∨ (0x40 ≤ a.toNat ∧ a.toNat ≤ 0x67))

/-- A FUNCTION-SET command with the 4-bit option, D4 = 0 (R74, R227). -/
def fourBit (w : BusWord) : Bool :=
  !w.rs && decide (commandFamily w.byte = some .functionSet) && !w.byte.getLsbD 4

/-- No event so far, latched or truncated, can have brought the controller a FUNCTION-SET with the 4-bit option. Where
this fails, the effect of every later transaction on the controller is unknown (R227, U4). DESIGN CHOICE (log entry 9):
only such a word counts; whether a word whose effect is any value (U2) may itself set 4-bit mode is open, and where this
holds a claim about the controller must rule such words out by `documentedWord`. -/
def eightBitThroughout (log : List Event) : Bool :=
  log.all fun e => e.receipts.all fun w => !(w.any fourBit)

/-! ## Timing conditions of the build -/

/-- The length of a number of `clk` cycles in seconds. -/
def seconds (e : Environment) (cycles : Nat) : Rat := (cycles : Rat) / (e.fClkHz : Rat)

/-- `T_HOLD / F_CLK_HZ >= T_PW_MIN` (R8, R225) -/
def PulseWidthOk (p : Params) (e : Environment) : Prop := e.tPwMin ≤ seconds e p.tHold

/-- The RS/data setup, hold and E-low conditions (R229) -/
def SetupHoldOk (p : Params) (e : Environment) : Prop :=
  e.tAsMin ≤ seconds e p.tSetup ∧ e.tAhMin ≤ seconds e p.tGap ∧ e.tElMin ≤ seconds e (p.tGap + p.tSetup)

/-- `L / F_CLK_HZ >= T_EXEC_MAX`, for INIT's back-to-back steps (R226) -/
def InitExecOk (p : Params) (e : Environment) : Prop := e.tExecMax ≤ seconds e p.length

/-- The time the host leaves after the latch of `previous`, in cycles, covers its execution (R226). -/
def ExecOk (e : Environment) (previous : BusWord) (cycles : Nat) : Prop := e.tExec previous ≤ seconds e cycles

/-- The host waits at least `T_POWERUP` after the controller's power-up before its first transaction (R224). -/
def PowerupOk (e : Environment) (cycles : Nat) : Prop := e.tPowerup ≤ seconds e cycles

/-! ## Boot order of the host -/

/-- What the request port does at the next `k` edges, in order; a move the host's assembler refuses ends the list. -/
def portEvents : Nat → State → List PortEvent
  | 0, _ => []
  | k + 1, s =>
    match drivenBy s.host with
    | .error _ => []
    | .ok d =>
      d.ports.event s ::
        match step s with
        | .next t => portEvents k t
        | .fault _ => []
        | .refused _ => []

/-- A composed request that may be a part of the host's own configuration: one other than the two address requests
(R224). DEDUCED (log entry 9): SEND_CMD is none, and the address requests come only after the configuration. -/
def configures (r : Request) : Bool := decide (0x2 ≤ r.op) && decide (r.op ≤ 0x7)

/-- A data or address request, to be sent only after a configuration (R224). -/
def needsConfiguration (r : Request) : Bool :=
  decide (r.op = 0x1) || decide (r.op = 0x8) || decide (r.op = 0x9)

/-- How far the host has come in the boot order of R224. -/
structure BootProgress where
  /-- steps 1 and 2: there has been a reset edge -/
  reset : Bool
  /-- the composed requests accepted since the last reset edge, oldest first -/
  sent : List Request
  /-- step 3 is done -/
  configured : Bool
  deriving DecidableEq, Repr

/-- Before the first reset edge. -/
def BootProgress.powerUp : BootProgress := { reset := false, sent := [], configured := false }

/-- Right after a reset edge. DEDUCED (log entry 9): a later reset asks for a configuration again, since it leaves the
controller's state unknown (R223). -/
def BootProgress.afterReset : BootProgress := { reset := true, sent := [], configured := false }

/-- The block accepts a request; `none` where that breaks the boot order. INIT configures, and so do the composed
requests sent once `own` holds of them: which "own sequence of composed requests" completes a configuration is open in
R224, so `own` is free: DESIGN CHOICE (log entry 9). -/
def BootProgress.accept (own : List Request → Bool) (r : Request) (b : BootProgress) : Option BootProgress :=
  if !b.reset then none
  else if needsConfiguration r then if b.configured then some b else none
  else if r.op = 0xA then some { b with configured := true }
  else if configures r then
    some { b with sent := b.sent ++ [r], configured := b.configured || own (b.sent ++ [r]) }
  else some b

/-- The boot order (R224), over what the request port does: only an accepted request has been sent (R106, R112). -/
def bootOrderFrom (own : List Request → Bool) : BootProgress → List PortEvent → Bool
  | _, [] => true
  | _, .reset :: es => bootOrderFrom own .afterReset es
  | b, .nothing :: es => bootOrderFrom own b es
  | b, .accepted r :: es =>
    match b.accept own r with
    | some b' => bootOrderFrom own b' es
    | none => false

/-- From `s`, a state right after a reset (R223), the host follows the boot order for as long as it goes on (R224). -/
def BootOrder (own : List Request → Bool) (s : State) : Prop :=
  ∀ k, bootOrderFrom own .afterReset (portEvents k s) = true

end Sys2Proof.Machine
end

