-- ==== Sys2Proof/Certificates/Slice0/Obligations.lean ====
section
/-! DEFINITION. The statements for the provers. A statement about `exec` of a request is about one rising edge with
`rst = 0` at which the host presents it; one about `clockEdge p` is about one rising edge with the input ports at `p`;
one about `step` is about one rising edge with the levels the host's moves drive. -/

open Sys2Proof Sys2Proof.Machine

/-! ## Encoding -/

/-- R70, R71, R74: every request and every bus word is the decoding of its own, single, code word. -/
def Obligations.RequestsAndBusWordsRoundTrip : Prop :=
  ∀ i : Instr, i.format ≠ .pseudo → ∃ c, encode i = [c] ∧ decode c = .ok i

/-- R70, R71, R74: a word decodes to one instruction only, whose encoding it is. -/
def Obligations.DecodedWordsEncodeBack : Prop :=
  ∀ (c : CodeWord) (i : Instr), decode c = .ok i → encode i = [c]

/-- R160 to R162: the request words a pseudo-operation expands to are `0x0800 | v`, in order, and each decodes to
SEND_DATA of its byte. -/
def Obligations.PseudoOperationsEncodeToSendData : Prop :=
  (∀ v : Nat, v ≤ 255 → encode (.writeChar (.byte v)) = [.req (0x0800 ||| BitVec.ofNat 15 v)] ∧
    decode (.req (0x0800 ||| BitVec.ofNat 15 v)) = .ok (.sendData 0 (BitVec.ofNat 8 v))) ∧
  (∀ c : Char, c.toNat ≤ 0xFF → encode (.writeChar (.char c)) = [.req (0x0800 ||| BitVec.ofNat 15 c.toNat)]) ∧
  (∀ s : List Char, (∀ c ∈ s, c.toNat ≤ 0xFF) →
    encode (.writeString s) = s.map fun c => .req (0x0800 ||| BitVec.ofNat 15 c.toNat))

/-- Words written out from the encoding tables (R70, R71, R74), one or two of each family. -/
def Obligations.SpecWordsDecode : Prop :=
  decode (.req 0b0000_000_00111000) = .ok (.sendCmd 0 0x38) ∧
  decode (.req 0b0001_111_11111111) = .ok (.sendData 0b111 0xFF) ∧
  decode (.req 0b0010_000_00000000) = .ok (.clear 0 0) ∧
  decode (.req 0b0011_111_11111111) = .ok (.home 0b111 0xFF) ∧
  decode (.req 0b0100_010_00000000) = .ok (.entryMode false true false 0) ∧
  decode (.req 0b0101_100_00000000) = .ok (.displayCtrl true false false 0) ∧
  decode (.req 0b0110_011_00000000) = .ok (.shift false true true 0) ∧
  decode (.req 0b0111_110_00000000) = .ok (.functionSet true true false 0) ∧
  decode (.req 0b1000_000_01000000) = .ok (.setCgram 0 64) ∧
  decode (.req 0b1001_000_10000000) = .ok (.setDdram 0 128) ∧
  decode (.req 0b1010_000_00000000) = .ok (.init 0 0) ∧
  decode (.req 0b1011_000_00000000) = .ok (.readFlag 0 0) ∧
  decode (.req 0b1100_000_00000000) = .ok (.readData 0 0) ∧
  decode (.req 0b1101_000_00000000) = .ok (.reservedD 0 0) ∧
  decode (.req 0b1111_111_11111111) = .ok (.reservedF 0b111 0xFF) ∧
  decode (.bus 0b0_0000_0001) = .ok .busClear ∧
  decode (.bus 0b0_0000_0110) = .ok (.busEntryModeSet true false) ∧
  decode (.bus 0b0_0011_1000) = .ok (.busFunctionSet true true false) ∧
  decode (.bus 0b0_1010_0111) = .ok (.busSetDdramAddr 0x27) ∧
  decode (.bus 0b1_0100_1000) = .ok (.busData 0x48)

/-- R81 (that a decoder rejects them is the model's, log entry 4): the bus-word decoder rejects exactly the command
bytes outside the documented forms. -/
def Obligations.UndocumentedBusWordsRejected : Prop :=
  ∀ w : BusBits, (∃ e, decode (.bus w) = .error e) ↔
    w.getLsbD 8 = false ∧
      (w.toNat = 0x00 ∨ w.toNat = 0x03 ∨ (0x10 ≤ w.toNat ∧ w.toNat ≤ 0x3F ∧ w.toNat % 4 ≠ 0))

/-- R76: the family of a command byte is the position of its most significant 1 bit; 0x00 has none. -/
def Obligations.CommandFamilyIsTopBit : Prop :=
  ∀ b : Byte,
    (commandFamily b = none ↔ b = 0x00) ∧
    (commandFamily b = some .clear ↔ b.toNat = 1) ∧
    (commandFamily b = some .home ↔ 2 ≤ b.toNat ∧ b.toNat < 4) ∧
    (commandFamily b = some .entryModeSet ↔ 4 ≤ b.toNat ∧ b.toNat < 8) ∧
    (commandFamily b = some .displayControl ↔ 8 ≤ b.toNat ∧ b.toNat < 16) ∧
    (commandFamily b = some .cursorDisplayShift ↔ 16 ≤ b.toNat ∧ b.toNat < 32) ∧
    (commandFamily b = some .functionSet ↔ 32 ≤ b.toNat ∧ b.toNat < 64) ∧
    (commandFamily b = some .setCgramAddr ↔ 64 ≤ b.toNat ∧ b.toNat < 128) ∧
    (commandFamily b = some .setDdramAddr ↔ 128 ≤ b.toNat)

/-- R75: selector and options never overlap, so OR equals addition and does not depend on the operands' order. -/
def Obligations.SelectorAndOptionsDisjoint : Prop :=
  ∀ (f : Family) (options : Byte),
    ((f = .clear ∨ f = .home) ∧ options = 0) ∨
    (f = .entryModeSet ∧ ∃ i s, options = entryModeOptions i s) ∨
    (f = .displayControl ∧ ∃ d c b, options = displayControlOptions d c b) ∨
    (f = .cursorDisplayShift ∧ ∃ t r, options = shiftOptions t r) ∨
    (f = .functionSet ∧ ∃ w n h, options = functionSetOptions w n h) ∨
    (f = .setCgramAddr ∧ ∃ a, options = cgramOperand a) ∨
    (f = .setDdramAddr ∧ ∃ a, options = ddramOperand a) →
    selector f &&& options = 0 ∧ selector f ||| options = selector f + options ∧
      options ||| selector f = selector f ||| options

/-! ## Results and frames of the requests: what an accepted request does, and that it changes nothing else -/

/-- R108, R109: the byte is taken whole; RS is low for SEND_CMD and high for SEND_DATA. -/
def Obligations.RawTransfersStartTransaction : Prop :=
  ∀ (s : State) (flags : BitVec 3) (arg : Byte), s.phase = .idle →
    exec (.sendCmd flags arg) s = .next { s with
      errCode := 0b00, rsQ := false, dQ := arg, phase := .setup, timer := s.params.tSetup - 1 } ∧
    exec (.sendData flags arg) s = .next { s with
      errCode := 0b00, rsQ := true, dQ := arg, phase := .setup, timer := s.params.tSetup - 1 }

/-- R131, R132 -/
def Obligations.ClearAndHomeStartTransaction : Prop :=
  ∀ (s : State) (flags : BitVec 3) (arg : Byte), s.phase = .idle →
    exec (.clear flags arg) s = .next { s with
      errCode := 0b00, rsQ := false, dQ := 0x01, phase := .setup, timer := s.params.tSetup - 1 } ∧
    exec (.home flags arg) s = .next { s with
      errCode := 0b00, rsQ := false, dQ := 0x02, phase := .setup, timer := s.params.tSetup - 1 }

/-- R133: the bus word is `000001is`. -/
def Obligations.EntryModeStartsTransaction : Prop :=
  ∀ (s : State) (x i sh : Bool) (arg : Byte), s.phase = .idle →
    exec (.entryMode x i sh arg) s = .next { s with
      errCode := 0b00, rsQ := false, dQ := 0b000001#6 ++ BitVec.ofBool i ++ BitVec.ofBool sh
      phase := .setup, timer := s.params.tSetup - 1 }

/-- R134: the bus word is `00001dcb`. -/
def Obligations.DisplayCtrlStartsTransaction : Prop :=
  ∀ (s : State) (d c b : Bool) (arg : Byte), s.phase = .idle →
    exec (.displayCtrl d c b arg) s = .next { s with
      errCode := 0b00, rsQ := false, dQ := 0b00001#5 ++ BitVec.ofBool d ++ BitVec.ofBool c ++ BitVec.ofBool b
      phase := .setup, timer := s.params.tSetup - 1 }

/-- R135: the bus word is `0001tr00`. -/
def Obligations.ShiftStartsTransaction : Prop :=
  ∀ (s : State) (x t r : Bool) (arg : Byte), s.phase = .idle →
    exec (.shift x t r arg) s = .next { s with
      errCode := 0b00, rsQ := false, dQ := 0b0001#4 ++ BitVec.ofBool t ++ BitVec.ofBool r ++ 0b00#2
      phase := .setup, timer := s.params.tSetup - 1 }

/-- R136: the bus word is `001wnf00`. -/
def Obligations.FunctionSetStartsTransaction : Prop :=
  ∀ (s : State) (w n f : Bool) (arg : Byte), s.phase = .idle →
    exec (.functionSet w n f arg) s = .next { s with
      errCode := 0b00, rsQ := false
      dQ := 0b001#3 ++ BitVec.ofBool w ++ BitVec.ofBool n ++ BitVec.ofBool f ++ 0b00#2
      phase := .setup, timer := s.params.tSetup - 1 }

/-- R77, R137, R138: the address is masked to its low 6 or 7 bits, under the selector `01` or `1`. -/
def Obligations.AddressCommandsMaskAndStart : Prop :=
  ∀ (s : State) (flags : BitVec 3) (a : Byte), s.phase = .idle →
    exec (.setCgram flags a) s = .next { s with
      errCode := 0b00, rsQ := false, dQ := BitVec.ofNat 8 (0x40 + a.toNat % 64)
      phase := .setup, timer := s.params.tSetup - 1 } ∧
    exec (.setDdram flags a) s = .next { s with
      errCode := 0b00, rsQ := false, dQ := BitVec.ofNat 8 (0x80 + a.toNat % 128)
      phase := .setup, timer := s.params.tSetup - 1 }

/-- R106, R163: acceptance of INIT marks the sequence active at step 0 and emits its first word. -/
def Obligations.InitStartsSequence : Prop :=
  ∀ (s : State) (flags : BitVec 3) (arg : Byte), s.phase = .idle →
    exec (.init flags arg) s = .next { s with
      errCode := 0b00, seqActive := true, seqIdx := 0, rsQ := false, dQ := 0x01
      phase := .setup, timer := s.params.tSetup - 1 }

/-- R202: the two reads raise UNSUPPORTED, whatever their fields; nothing but the code and the sticky bit changes. -/
def Obligations.ReadsRaiseUnsupported : Prop :=
  ∀ (s : State) (flags : BitVec 3) (arg : Byte), s.phase = .idle →
    decodeRequest { op := 0xB, flags := flags, arg := arg } = .readFlag flags arg ∧
    exec (.readFlag flags arg) s = .next { s with errCode := 0b01, errSticky := true } ∧
    decodeRequest { op := 0xC, flags := flags, arg := arg } = .readData flags arg ∧
    exec (.readData flags arg) s = .next { s with errCode := 0b01, errSticky := true }

/-- R203: the three reserved opcodes raise RESERVED; nothing but the code and the sticky bit changes. -/
def Obligations.ReservedOpcodesRaiseReserved : Prop :=
  ∀ (s : State) (flags : BitVec 3) (arg : Byte), s.phase = .idle →
    decodeRequest { op := 0xD, flags := flags, arg := arg } = .reservedD flags arg ∧
    exec (.reservedD flags arg) s = .next { s with errCode := 0b10, errSticky := true } ∧
    decodeRequest { op := 0xE, flags := flags, arg := arg } = .reservedE flags arg ∧
    exec (.reservedE flags arg) s = .next { s with errCode := 0b10, errSticky := true } ∧
    decodeRequest { op := 0xF, flags := flags, arg := arg } = .reservedF flags arg ∧
    exec (.reservedF flags arg) s = .next { s with errCode := 0b10, errSticky := true }

/-- R204, R130: the code every accepted request writes, by what it asks for; OK exactly where it puts words on the
bus, and never 0b11. -/
def Obligations.AcceptedRequestsWriteTheirCode : Prop :=
  ∀ (s : State) (i : Instr), i.format = .req → s.phase = .idle →
    ∃ t, exec i s = .next t ∧ (t.errCode = 0b00 ↔ busWords i ≠ []) ∧ t.errCode ≠ 0b11 ∧
      (t.errCode ≠ 0b00 → t.errSticky = true) ∧ (t.errCode = 0b00 → t.errSticky = s.errSticky)

/-- R73: an ignored `flags` bit and an ignored `arg` have no effect; the result is the same as with 0. -/
def Obligations.IgnoredFieldsHaveNoEffect : Prop :=
  ∀ (s : State) (f : BitVec 3) (a : Byte) (x b2 b1 b0 : Bool),
    exec (.sendCmd f a) s = exec (.sendCmd 0 a) s ∧
    exec (.sendData f a) s = exec (.sendData 0 a) s ∧
    exec (.clear f a) s = exec (.clear 0 0) s ∧
    exec (.home f a) s = exec (.home 0 0) s ∧
    exec (.entryMode x b1 b0 a) s = exec (.entryMode false b1 b0 0) s ∧
    exec (.displayCtrl b2 b1 b0 a) s = exec (.displayCtrl b2 b1 b0 0) s ∧
    exec (.shift x b1 b0 a) s = exec (.shift false b1 b0 0) s ∧
    exec (.functionSet b2 b1 b0 a) s = exec (.functionSet b2 b1 b0 0) s ∧
    exec (.setCgram f a) s = exec (.setCgram 0 a) s ∧
    exec (.setDdram f a) s = exec (.setDdram 0 a) s ∧
    exec (.init f a) s = exec (.init 0 0) s ∧
    exec (.readFlag f a) s = exec (.readFlag 0 0) s ∧
    exec (.readData f a) s = exec (.readData 0 0) s ∧
    exec (.reservedD f a) s = exec (.reservedD 0 0) s ∧
    exec (.reservedE f a) s = exec (.reservedE 0 0) s ∧
    exec (.reservedF f a) s = exec (.reservedF 0 0) s

/-- R106, R112: a request presented while the block is busy is neither sampled nor stored: the edge is the one the
block has without any request. -/
def Obligations.BusyRequestsAreNotTaken : Prop :=
  ∀ (s : State) (i : Instr), i.format = .req → s.phase ≠ .idle → exec i s = clockEdge Ports.quiet s

/-! ## Bus words and pseudo-operations -/

/-- R101, R74 (a bus word as an instruction of its own is log entry 10): a bus word that is due, in IDLE or at the
end of GAP, starts its transaction and changes nothing else. -/
def Obligations.BusWordsStartTransaction : Prop :=
  ∀ (s : State) (i : Instr) (w : BusWord), i.format = .bus → busWords i = [w] →
    s.phase = .idle ∨ (s.phase = .gap ∧ s.timer = 0) →
    exec i s = .next { s with rsQ := w.rs, dQ := w.byte, phase := .setup, timer := s.params.tSetup - 1 }

/-- R74: each of the nine bus-word instructions carries the word of its table row. -/
def Obligations.BusInstructionsCarryTheirWord : Prop :=
  ∀ (i : Instr) (w : BusBits), encode i = [.bus w] → busWords i = [BusWord.ofBits w]

/-- R160, R161 (the host's list of moves is the model's, log entries 2 and 10): WRITE_CHAR has the host present one
SEND_DATA request of the byte or the code point, before what it was going to do; the block itself is unchanged. -/
def Obligations.WriteCharQueuesSendData : Prop :=
  ∀ (s : State),
    (∀ v : Nat, v ≤ 255 → exec (.writeChar (.byte v)) s = .next { s with
      host := .request { op := 0x1, flags := 0, arg := BitVec.ofNat 8 v } :: s.host }) ∧
    (∀ c : Char, c.toNat ≤ 0xFF → exec (.writeChar (.char c)) s = .next { s with
      host := .request { op := 0x1, flags := 0, arg := BitVec.ofNat 8 c.toNat } :: s.host })

/-- R162 (the host's list of moves is the model's, log entries 2 and 10): WRITE_STRING has the host present one
SEND_DATA request per character, in order, and nothing else. -/
def Obligations.WriteStringQueuesSendData : Prop :=
  ∀ (s : State) (cs : List Char), (∀ c ∈ cs, c.toNat ≤ 0xFF) →
    exec (.writeString cs) s = .next { s with
      host := cs.map (fun c => .request { op := 0x1, flags := 0, arg := BitVec.ofNat 8 c.toNat }) ++ s.host }

/-- D16, D17, U10: an operand that does not fit is refused by name, the first such character of a string. -/
def Obligations.UnfitOperandsAreRefused : Prop :=
  ∀ (s : State),
    (∀ v : Int, v < 0 ∨ 255 < v → exec (.writeChar (.byte v)) s = .refused (.byteOutOfRange v)) ∧
    (∀ c : Char, 0xFF < c.toNat → exec (.writeChar (.char c)) s = .refused (.codePointTooLarge c)) ∧
    (∀ (before : List Char) (c : Char) (after : List Char), (∀ b ∈ before, b.toNat ≤ 0xFF) → 0xFF < c.toNat →
      exec (.writeString (before ++ c :: after)) s = .refused (.codePointTooLarge c))

/-- R83, R84, U9, U10 (the reading of the text is log entry 6): a line the assembler takes is a request of opcode 0x0
to 0xC, or a pseudo-operation whose operand fits. -/
def Obligations.AssembledLinesFit : Prop :=
  ∀ (line : List Char) (m : HostMove), assembleLine line = .ok m →
    (∃ r, m = .request r ∧ r.op.toNat ≤ 0xC) ∨
    (∃ c, m = .writeChar c ∧ (Instr.writeChar c).WellFormed) ∨
    (∃ cs, m = .writeString cs ∧ (Instr.writeString cs).WellFormed)

/-! ## The clock edge and the step -/

/-- R19, R101 (the host's list of moves is the model's, log entry 2): a step is one rising edge with the levels the
host drives, after which that move is over. -/
def Obligations.StepIsOneRisingEdge : Prop :=
  ∀ (s : State) (p : Ports) (rest : List HostMove), s.host = .drive p :: rest →
    ∃ t, clockEdge p s = .next t ∧ step s = .next { t with host := rest }

/-- R106, R112 (the host's list of moves is the model's, log entry 2): where the host presents a word that decodes to
an instruction, the step runs that instruction; the host goes on to its next move exactly if the block was IDLE. -/
def Obligations.StepRunsPresentedInstruction : Prop :=
  ∀ (s : State) (w : RequestWord) (i : Instr) (rest : List HostMove),
    decode (.req w) = .ok i → s.host = .request (Request.ofWord w) :: rest →
    ∃ t, exec i s = .next t ∧
      step s = .next { t with host := if s.phase = .idle then rest else .request (Request.ofWord w) :: rest }

/-- R84, R160 to R162 (the host's list of moves is the model's, log entry 2): where the host comes to a
pseudo-operation, the step is that of its expansion. -/
def Obligations.StepExpandsPseudoOperations : Prop :=
  ∀ (s : State) (rest : List HostMove),
    (∀ c t, s.host = .writeChar c :: rest → exec (.writeChar c) { s with host := rest } = .next t →
      step s = step t) ∧
    (∀ cs t, s.host = .writeString cs :: rest → exec (.writeString cs) { s with host := rest } = .next t →
      step s = step t) ∧
    (∀ c e, s.host = .writeChar c :: rest → exec (.writeChar c) { s with host := rest } = .refused e →
      step s = .refused e) ∧
    (∀ cs e, s.host = .writeString cs :: rest → exec (.writeString cs) { s with host := rest } = .refused e →
      step s = .refused e)

/-- R37, R104, R163 (a bus word as an instruction of its own is log entry 10): the end of a GAP inside INIT starts the
transaction of the next entry of `INIT_WORDS`, which is what that bus-word instruction does, and advances `seq_idx`. -/
def Obligations.InitStepRunsNextBusWord : Prop :=
  ∀ (s : State) (p : Ports), p.rst = false → s.phase = .gap → s.timer = 0 → s.seqActive = true →
    (s.seqIdx = 0 → ∃ t, exec (.busFunctionSet true true false) s = .next t ∧
      clockEdge p s = .next { t with seqIdx := 1 }) ∧
    (s.seqIdx = 1 → ∃ t, exec (.busDisplayControl true true true) s = .next t ∧
      clockEdge p s = .next { t with seqIdx := 2 }) ∧
    (s.seqIdx = 2 → ∃ t, exec (.busEntryModeSet true false) s = .next t ∧
      clockEdge p s = .next { t with seqIdx := 3 })

/-- R102 to R105, R25: what an edge without reset does in each busy phase, and in IDLE without a request. -/
def Obligations.PhasesAdvance : Prop :=
  ∀ (s : State) (p : Ports), p.rst = false →
    (s.phase = .idle → p.reqValid = false → clockEdge p s = .next s) ∧
    (s.phase ≠ .idle → s.timer ≠ 0 → clockEdge p s = .next { s with timer := s.timer - 1 }) ∧
    (s.phase = .setup → s.timer = 0 →
      clockEdge p s = .next { s with eQ := true, phase := .pulse, timer := s.params.tHold - 1 }) ∧
    (s.phase = .pulse → s.timer = 0 →
      clockEdge p s = .next { s with
        eQ := false, log := s.log ++ [.latched s.rsQ s.dQ], phase := .gap, timer := s.params.tGap - 1 }) ∧
    (s.phase = .gap → s.timer = 0 → s.seqActive = false ∨ s.seqIdx = 3 →
      clockEdge p s = .next { s with phase := .idle, seqActive := false, seqIdx := 0 })

/-- R220, R209: a reset edge, in any state and whatever is presented. -/
def Obligations.ResetEdgeWritesEveryRegister : Prop :=
  ∀ (s : State) (p : Ports), p.rst = true →
    ∃ t, clockEdge p s = .next t ∧
      t = { s with
        log := if s.eQ = true then s.log ++ [.truncated s.rsQ s.dQ (s.params.tHold - s.timer)] else s.log
        rsQ := false, eQ := false, dQ := 0x00, phase := .idle, timer := 0, seqActive := false, seqIdx := 0
        errCode := 0b00, errSticky := false } ∧
      t.lcdRs = false ∧ t.lcdE = false ∧ (∀ i, t.lcdD i = false) ∧ t.reqReady = true

/-- R221: while `rst` stays 1, every further edge leaves the state as it is. -/
def Obligations.HeldResetChangesNothing : Prop :=
  ∀ (s t : State) (p q : Ports), p.rst = true → q.rst = true → clockEdge p s = .next t → clockEdge q t = .next t

/-- R222: what reset logs in each phase: a pulse cut short after between 1 and `T_HOLD` cycles high, else nothing;
the INIT steps not yet emitted are dropped. -/
def Obligations.ResetMidTransactionByPhase : Prop :=
  ∀ (s : State) (p : Ports), Inv s → s.params.Legal → p.rst = true →
    ∃ t, clockEdge p s = .next t ∧ t.seqActive = false ∧ t.phase = .idle ∧
      (s.phase ≠ .pulse → t.log = s.log) ∧
      (s.phase = .pulse → ∃ n, 1 ≤ n ∧ n ≤ s.params.tHold ∧ n + s.timer = s.params.tHold ∧
        t.log = s.log ++ [.truncated s.rsQ s.dQ n])

/-- R20, R36: the state right after reset. -/
def Obligations.ResetStateValues : Prop :=
  ∀ p : Params, (State.resetWith p).rsQ = false ∧ (State.resetWith p).eQ = false ∧ (State.resetWith p).dQ = 0x00 ∧
    (State.resetWith p).phase = .idle ∧ (State.resetWith p).phase.code = 0 ∧ (State.resetWith p).timer = 0 ∧
    (State.resetWith p).seqActive = false ∧ (State.resetWith p).seqIdx = 0 ∧ (State.resetWith p).errCode = 0b00 ∧
    (State.resetWith p).errSticky = false ∧ (State.resetWith p).log = []

/-- R100: after SetBus(v), line `i` is bit `i` of `v`, and nothing else has changed. -/
def Obligations.SetBusDrivesEachLine : Prop :=
  ∀ (s : State) (v : Byte),
    (∀ i : Fin 8, (s.setBus v).lcdD i = decide (v.toNat / 2 ^ i.val % 2 = 1)) ∧ s.setBus v = { s with dQ := v }

/-! ## Invariants -/

/-- R38: the invariants hold after reset, for every build. -/
def Obligations.InvariantsHoldAtReset : Prop := ∀ p : Params, Inv (State.resetWith p) ∧ TimerFits (State.resetWith p)

/-- R38, R223: a reset edge establishes the invariants from every state whatever, so also from the unspecified state
before the first reset. -/
def Obligations.ResetEstablishesInvariants : Prop :=
  ∀ (s : State) (p : Ports), p.rst = true → ∃ t, clockEdge p s = .next t ∧ Inv t ∧ TimerFits t

/-- R38: every step keeps the invariants. -/
def Obligations.StepKeepsInvariants : Prop := ∀ s t : State, Inv s → step s = .next t → Inv t

/-- R11, R25: every step keeps the timer within its `W_T` bits. -/
def Obligations.StepKeepsTimerWidth : Prop := ∀ s t : State, TimerFits s → step s = .next t → TimerFits t

/-- R38: the invariants hold in every state that a run from a reset state reaches, whatever the host's moves (log
entry 2) are. -/
def Obligations.ReachableStatesMeetInvariants : Prop :=
  ∀ (p : Params) (moves : List HostMove) (k : Nat) (t : State),
    Sys2Proof.core.run k { State.resetWith p with host := moves } = .next t → Inv t

/-- R11: `W_T` is the smallest width, at least 1, that holds `max(T_SETUP, T_HOLD, T_GAP) - 1`. -/
def Obligations.TimerWidthIsSmallest : Prop :=
  ∀ p : Params, 1 ≤ p.timerWidth ∧ max p.tSetup (max p.tHold p.tGap) - 1 < 2 ^ p.timerWidth ∧
    ∀ w, 1 ≤ w → max p.tSetup (max p.tHold p.tGap) - 1 < 2 ^ w → p.timerWidth ≤ w

/-! ## Whole-machine rules -/

/-- R111 (a), (c): except at a reset edge, RS and D never change where E changes, and E is low where they do. -/
def Obligations.BusIsStableAroundEnable : Prop :=
  ∀ (s t : State) (p : Ports), Inv s → p.rst = false → clockEdge p s = .next t →
    (t.eQ ≠ s.eQ → t.rsQ = s.rsQ ∧ t.dQ = s.dQ) ∧
    (t.rsQ ≠ s.rsQ ∨ t.dQ ≠ s.dQ → s.eQ = false ∧ t.eQ = false)

/-- R36, R105: the log grows by exactly one event at each falling edge of E, and only there. -/
def Obligations.LogGrowsByFallingEdges : Prop :=
  ∀ (s t : State) (p : Ports), Inv s → clockEdge p s = .next t →
    (s.eQ = true ∧ t.eQ = false → p.rst = false → t.log = s.log ++ [.latched s.rsQ s.dQ]) ∧
    (s.eQ = true → p.rst = true → ∃ n, t.log = s.log ++ [.truncated s.rsQ s.dQ n]) ∧
    (¬(s.eQ = true ∧ t.eQ = false) → t.log = s.log)

/-- R27, R106: except at a reset edge, `err_code` and `err_sticky` change only where a request is accepted. -/
def Obligations.StatusChangesOnlyAtAcceptance : Prop :=
  ∀ (s t : State) (p : Ports), p.rst = false → clockEdge p s = .next t →
    ¬(s.phase = .idle ∧ p.reqValid = true) → t.errCode = s.errCode ∧ t.errSticky = s.errSticky

/-- R28: `err_sticky` is set by an accepted request that writes a code other than OK, and cleared only by reset. -/
def Obligations.StickyErrorClearedOnlyByReset : Prop :=
  ∀ (s t : State) (p : Ports), clockEdge p s = .next t →
    (p.rst = false → s.errSticky = true → t.errSticky = true) ∧
    (s.errSticky = false → t.errSticky = true →
      p.rst = false ∧ s.phase = .idle ∧ p.reqValid = true ∧ t.errCode ≠ 0b00) ∧
    (p.rst = false → s.phase = .idle → p.reqValid = true → t.errCode ≠ 0b00 → t.errSticky = true) ∧
    (p.rst = true → t.errSticky = false)

/-- R32, R106, R112: the request fields matter only at an acceptance edge. -/
def Obligations.PortsIgnoredUnlessAccepted : Prop :=
  ∀ (s : State) (p q : Ports), p.rst = q.rst →
    ¬(p.rst = false ∧ p.reqValid = true ∧ s.phase = .idle) → ¬(q.rst = false ∧ q.reqValid = true ∧ s.phase = .idle) →
    clockEdge p s = clockEdge q s

/-- R34: no step writes the parameters. -/
def Obligations.StepKeepsParameters : Prop := ∀ s t : State, step s = .next t → t.params = s.params

/-- R101, R210, U10 (the model's own refusal of unfit operands, log entry 2): the step answers a next state in every
state where the pseudo-operations still to come are well formed. -/
def Obligations.StepCompletes : Prop :=
  ∀ s : State, (∀ c, HostMove.writeChar c ∈ s.host → (Instr.writeChar c).WellFormed) →
    (∀ cs, HostMove.writeString cs ∈ s.host → (Instr.writeString cs).WellFormed) → ∃ t, step s = .next t

/-! ## Timing -/

/-- R110: the timeline of one single-word request, accepted at the first edge (`a`): the state `j` edges after it. Where
`rs` is empty the host drives the idle levels of log entry 2. -/
def Obligations.SingleTransactionTimeline : Prop :=
  ∀ (s : State) (r : Request) (rs : List Request) (w : BusWord) (j : Nat),
    Inv s → s.params.Legal → s.phase = .idle → s.host = (r :: rs).map HostMove.request →
    busWords (decodeRequest r) = [w] → j ≤ s.params.length →
    ∃ u, Sys2Proof.core.run (1 + j) s = .next u ∧
      u.rsQ = w.rs ∧ u.dQ = w.byte ∧ u.errCode = 0b00 ∧ u.errSticky = s.errSticky ∧ u.seqActive = false ∧
      u.params = s.params ∧ u.host = rs.map HostMove.request ∧
      (u.eQ = true ↔ s.params.tSetup ≤ j ∧ j < s.params.tSetup + s.params.tHold) ∧
      u.log = (if j < s.params.tSetup + s.params.tHold then s.log else s.log ++ [.latched w.rs w.byte]) ∧
      (u.phase = .idle ↔ j = s.params.length)

/-- R110, R163, R164: the timeline of INIT: the state `j` edges into step `k`, and the end after `4 * L` edges. Where
`rs` is empty the host drives the idle levels of log entry 2. -/
def Obligations.InitTimeline : Prop :=
  ∀ (s : State) (r : Request) (rs : List Request),
    Inv s → s.params.Legal → s.phase = .idle → s.host = (r :: rs).map HostMove.request → r.op = 0xA →
    (∀ (k : Fin 4) (j : Nat), j < s.params.length →
      ∃ u, Sys2Proof.core.run (1 + (k.val * s.params.length + j)) s = .next u ∧
        u.seqActive = true ∧ u.seqIdx = k ∧ u.busWord = initWord k ∧ u.phase ≠ .idle ∧
        u.host = rs.map HostMove.request ∧
        (u.eQ = true ↔ s.params.tSetup ≤ j ∧ j < s.params.tSetup + s.params.tHold) ∧
        u.log = s.log ++
          (([⟨false, 0x01⟩, ⟨false, 0x38⟩, ⟨false, 0x0F⟩, ⟨false, 0x06⟩] : List BusWord).take
            (if j < s.params.tSetup + s.params.tHold then k.val else k.val + 1)).map latchedEvent) ∧
    ∃ u, Sys2Proof.core.run (1 + 4 * s.params.length) s = .next u ∧
      u.phase = .idle ∧ u.seqActive = false ∧ u.seqIdx = 0 ∧ u.errCode = 0b00 ∧ u.errSticky = s.errSticky ∧
      u.host = rs.map HostMove.request ∧
      u.log = s.log ++ [.latched false 0x01, .latched false 0x38, .latched false 0x0F, .latched false 0x06]

/-- R59, R230: requests presented one after the other run in order: the log gains exactly their words, each request
takes `1 + L * (number of its words)` edges, and `err_sticky` records whether one of them raised an error. The last
transaction runs on the idle levels of log entry 2. -/
def Obligations.RequestsRunInAcceptanceOrder : Prop :=
  ∀ (s : State) (rs : List Request),
    Inv s → s.params.Legal → s.phase = .idle → s.host = rs.map HostMove.request →
    ∃ u, Sys2Proof.core.run
        ((rs.map fun r => 1 + s.params.length * (busWords (decodeRequest r)).length).sum) s = .next u ∧
      u.phase = .idle ∧ u.host = [] ∧ u.params = s.params ∧
      u.log = s.log ++ (rs.flatMap fun r => (busWords (decodeRequest r)).map latchedEvent) ∧
      u.errSticky = (s.errSticky || rs.any fun r => (busWords (decodeRequest r)).isEmpty)

/-- R162, R230: WRITE_STRING of `n` characters has latched exactly their codes, in order, with RS high, after `n * (L
+ 1)` edges, and no address command. The step expands the string (log entries 2 and 10), and the last transaction runs
on the idle levels of log entry 2. -/
def Obligations.WriteStringLatchesItsCharacters : Prop :=
  ∀ (s : State) (cs : List Char),
    Inv s → s.params.Legal → s.phase = .idle → s.host = [.writeString cs] → (∀ c ∈ cs, c.toNat ≤ 0xFF) →
    ∃ u, Sys2Proof.core.run (cs.length * (s.params.length + 1)) s = .next u ∧
      u.phase = .idle ∧ u.log = s.log ++ cs.map fun c => .latched true (BitVec.ofNat 8 c.toNat)

/-! ## Conditions of the build -/

/-- R8: the reference value of `T_HOLD` is `ceil(0.005 * F_CLK_HZ)`, and with it the pulse is wide enough for every
controller whose minimum is at most 5 ms (R225). -/
def Obligations.ReferenceHoldMeetsFiveMilliseconds : Prop :=
  ∀ f : Nat, 0 < f → ((referenceHold f : Int) = ⌈(5 / 1000 : Rat) * f⌉) ∧
    ∀ (p : Params) (e : Environment), p.tHold = referenceHold f → e.fClkHz = f → e.tPwMin ≤ 5 / 1000 →
      PulseWidthOk p e

/-- R227, R222, R76 (counting a truncated word as possibly received, and no word of unknown effect, is log entry 9): a
log counts as 8-bit throughout exactly if no event of it, latched or truncated, carries a FUNCTION-SET with the 4-bit
option: RS = 0 and a byte 0x20 to 0x2F. So no later event brings back what such a word has ended. -/
def Obligations.FourBitModeIsNeverForgotten : Prop :=
  ∀ l : List Event, eightBitThroughout l = false ↔
    ∃ b : Byte, 0x20 ≤ b.toNat ∧ b.toNat ≤ 0x2F ∧ (.latched false b ∈ l ∨ ∃ n, .truncated false b n ∈ l)

/-! ## The host's programs -/

/-- R224, R162 (which own sequence completes a configuration is free, log entry 9; after its requests the host
drives the idle levels of log entry 2): a host that presents INIT first, or first an own sequence of composed requests
that completes, keeps the boot order whatever requests follow; one that presents a data or address request first does
not; and WRITE_STRING of the empty string, which sends nothing, makes no difference. -/
def Obligations.BootOrderAsksForConfiguration : Prop :=
  ∀ (own : List Request → Bool) (s : State),
    (∀ r rs, r.op = 0xA → s.host = (r :: rs).map HostMove.request → BootOrder own s) ∧
    (∀ cs rs, cs ≠ [] → (∀ c ∈ cs, 0x2 ≤ c.op.toNat ∧ c.op.toNat ≤ 0x7) → own cs = true →
      s.host = (cs ++ rs).map HostMove.request → BootOrder own s) ∧
    (∀ r rest, r.op = 0x1 ∨ r.op = 0x8 ∨ r.op = 0x9 → s.phase = .idle → s.host = .request r :: rest →
      ¬ BootOrder own s) ∧
    (∀ rest, s.host = .writeString [] :: rest → (BootOrder own s ↔ BootOrder own { s with host := rest }))

/-- R83, R84, R210 (the reading of the text is log entry 6, the host's list of moves and its idle levels log entry 2): a
host that carries out an assembled program is never stopped, from any state and for any number of edges. -/
def Obligations.AssembledProgramsAreNeverRefused : Prop :=
  ∀ (lines : List (List Char)) (moves : List HostMove) (s : State) (k : Nat),
    assemble lines = .ok moves → s.host = moves → ∃ t, Sys2Proof.core.run k s = .next t
end

