-- ==== Sys2Proof/Laws/Decode.lean ====
section
/-! SUPPORT. The fields of packed words. -/

namespace Sys2Proof

/-- Bits 7:0 are `arg`, 10:8 `flags`, 14:11 `op` (R70). -/
theorem Request.word_getLsbD (r : Request) (i : Nat) :
    r.word.getLsbD i =
      if i < 8 then r.arg.getLsbD i else if i < 11 then r.flags.getLsbD (i - 8) else r.op.getLsbD (i - 11) := by
  have h := BitVec.getLsbD_append (x := r.op ++ r.flags) (y := r.arg) (i := i)
  have h' := BitVec.getLsbD_append (x := r.op) (y := r.flags) (i := i - 8)
  rw [h'] at h
  refine h.trans ?_
  by_cases h8 : i < 8
  · simp [h8]
  · by_cases h11 : i < 11
    · have : i - 8 < 3 := by omega
      simp [h8, h11, this]
    · have : ¬(i - 8 < 3) := by omega
      have e : i - 8 - 3 = i - 11 := by omega
      simp [h8, h11, this, e]

@[simp] theorem Request.ofWord_word (r : Request) : Request.ofWord r.word = r := by
  obtain ⟨op, flags, arg⟩ := r
  simp only [Request.ofWord, Request.mk.injEq]
  refine ⟨?_, ?_, ?_⟩ <;> apply BitVec.eq_of_getLsbD_eq <;> intro i hi
  · have h8 : ¬(11 + i < 8) := by omega
    have h11 : ¬(11 + i < 11) := by omega
    simp [Request.word_getLsbD, hi, h8]
  · have h11 : 8 + i < 11 := by omega
    simp [Request.word_getLsbD, hi, h11]
  · simp [Request.word_getLsbD, hi]

@[simp] theorem Request.word_ofWord (w : RequestWord) : (Request.ofWord w).word = w := by
  apply BitVec.eq_of_getLsbD_eq
  intro i hi
  rw [Request.word_getLsbD]
  simp only [Request.ofWord, BitVec.getLsbD_extractLsb']
  by_cases h8 : i < 8
  · simp [h8]
  · by_cases h11 : i < 11
    · have e : 8 + (i - 8) = i := by omega
      have l : i - 8 < 3 := by omega
      simp [h8, h11, e, l]
    · have e : 11 + (i - 11) = i := by omega
      have l : i - 11 < 4 := by omega
      simp [h8, h11, e, l]

@[simp] theorem flags3_bit2 (b2 b1 b0 : Bool) : (flags3 b2 b1 b0)[2] = b2 := by
  revert b2 b1 b0
  decide

@[simp] theorem flags3_bit1 (b2 b1 b0 : Bool) : (flags3 b2 b1 b0)[1] = b1 := by
  revert b2 b1 b0
  decide

@[simp] theorem flags3_bit0 (b2 b1 b0 : Bool) : (flags3 b2 b1 b0)[0] = b0 := by
  revert b2 b1 b0
  decide

@[simp] theorem flags3_of_bits : ∀ f : BitVec 3, flags3 f[2] f[1] f[0] = f := by decide

@[simp] theorem BusWord.ofBits_bits (w : BusWord) : BusWord.ofBits w.bits = w := by
  obtain ⟨rs, byte⟩ := w
  revert byte
  cases rs <;> decide

theorem BusWord.bits_ofBits : ∀ w : BusBits, (BusWord.ofBits w).bits = w := by decide

end Sys2Proof
end

