-- ==== Sys2Proof/Laws/State.lean ====
section
/-! SUPPORT. Each field of the state after each update: true by unfolding, once and for all. -/

namespace Sys2Proof.Machine.State

@[simp] theorem setBus_rsQ (s : State) (v : Byte) : (s.setBus v).rsQ = s.rsQ := rfl
@[simp] theorem setBus_eQ (s : State) (v : Byte) : (s.setBus v).eQ = s.eQ := rfl
@[simp] theorem setBus_dQ (s : State) (v : Byte) : (s.setBus v).dQ = v := rfl
@[simp] theorem setBus_phase (s : State) (v : Byte) : (s.setBus v).phase = s.phase := rfl
@[simp] theorem setBus_timer (s : State) (v : Byte) : (s.setBus v).timer = s.timer := rfl
@[simp] theorem setBus_seqActive (s : State) (v : Byte) : (s.setBus v).seqActive = s.seqActive := rfl
@[simp] theorem setBus_seqIdx (s : State) (v : Byte) : (s.setBus v).seqIdx = s.seqIdx := rfl
@[simp] theorem setBus_errCode (s : State) (v : Byte) : (s.setBus v).errCode = s.errCode := rfl
@[simp] theorem setBus_errSticky (s : State) (v : Byte) : (s.setBus v).errSticky = s.errSticky := rfl
@[simp] theorem setBus_log (s : State) (v : Byte) : (s.setBus v).log = s.log := rfl
@[simp] theorem setBus_params (s : State) (v : Byte) : (s.setBus v).params = s.params := rfl
@[simp] theorem setBus_host (s : State) (v : Byte) : (s.setBus v).host = s.host := rfl

@[simp] theorem enterPhase_rsQ (s : State) (ph : Phase) (n : Nat) : (s.enterPhase ph n).rsQ = s.rsQ := rfl
@[simp] theorem enterPhase_eQ (s : State) (ph : Phase) (n : Nat) : (s.enterPhase ph n).eQ = s.eQ := rfl
@[simp] theorem enterPhase_dQ (s : State) (ph : Phase) (n : Nat) : (s.enterPhase ph n).dQ = s.dQ := rfl
@[simp] theorem enterPhase_phase (s : State) (ph : Phase) (n : Nat) : (s.enterPhase ph n).phase = ph := rfl
@[simp] theorem enterPhase_timer (s : State) (ph : Phase) (n : Nat) : (s.enterPhase ph n).timer = n - 1 := rfl
@[simp] theorem enterPhase_seqActive (s : State) (ph : Phase) (n : Nat) : (s.enterPhase ph n).seqActive = s.seqActive := rfl
@[simp] theorem enterPhase_seqIdx (s : State) (ph : Phase) (n : Nat) : (s.enterPhase ph n).seqIdx = s.seqIdx := rfl
@[simp] theorem enterPhase_errCode (s : State) (ph : Phase) (n : Nat) : (s.enterPhase ph n).errCode = s.errCode := rfl
@[simp] theorem enterPhase_errSticky (s : State) (ph : Phase) (n : Nat) : (s.enterPhase ph n).errSticky = s.errSticky := rfl
@[simp] theorem enterPhase_log (s : State) (ph : Phase) (n : Nat) : (s.enterPhase ph n).log = s.log := rfl
@[simp] theorem enterPhase_params (s : State) (ph : Phase) (n : Nat) : (s.enterPhase ph n).params = s.params := rfl
@[simp] theorem enterPhase_host (s : State) (ph : Phase) (n : Nat) : (s.enterPhase ph n).host = s.host := rfl

@[simp] theorem emit_rsQ (s : State) (w : BusWord) : (s.emit w).rsQ = w.rs := rfl
@[simp] theorem emit_eQ (s : State) (w : BusWord) : (s.emit w).eQ = s.eQ := rfl
@[simp] theorem emit_dQ (s : State) (w : BusWord) : (s.emit w).dQ = w.byte := rfl
@[simp] theorem emit_phase (s : State) (w : BusWord) : (s.emit w).phase = Phase.setup := rfl
@[simp] theorem emit_timer (s : State) (w : BusWord) : (s.emit w).timer = s.params.tSetup - 1 := rfl
@[simp] theorem emit_seqActive (s : State) (w : BusWord) : (s.emit w).seqActive = s.seqActive := rfl
@[simp] theorem emit_seqIdx (s : State) (w : BusWord) : (s.emit w).seqIdx = s.seqIdx := rfl
@[simp] theorem emit_errCode (s : State) (w : BusWord) : (s.emit w).errCode = s.errCode := rfl
@[simp] theorem emit_errSticky (s : State) (w : BusWord) : (s.emit w).errSticky = s.errSticky := rfl
@[simp] theorem emit_log (s : State) (w : BusWord) : (s.emit w).log = s.log := rfl
@[simp] theorem emit_params (s : State) (w : BusWord) : (s.emit w).params = s.params := rfl
@[simp] theorem emit_host (s : State) (w : BusWord) : (s.emit w).host = s.host := rfl

@[simp] theorem countDown_rsQ (s : State) : (s.countDown).rsQ = s.rsQ := rfl
@[simp] theorem countDown_eQ (s : State) : (s.countDown).eQ = s.eQ := rfl
@[simp] theorem countDown_dQ (s : State) : (s.countDown).dQ = s.dQ := rfl
@[simp] theorem countDown_phase (s : State) : (s.countDown).phase = s.phase := rfl
@[simp] theorem countDown_timer (s : State) : (s.countDown).timer = s.timer - 1 := rfl
@[simp] theorem countDown_seqActive (s : State) : (s.countDown).seqActive = s.seqActive := rfl
@[simp] theorem countDown_seqIdx (s : State) : (s.countDown).seqIdx = s.seqIdx := rfl
@[simp] theorem countDown_errCode (s : State) : (s.countDown).errCode = s.errCode := rfl
@[simp] theorem countDown_errSticky (s : State) : (s.countDown).errSticky = s.errSticky := rfl
@[simp] theorem countDown_log (s : State) : (s.countDown).log = s.log := rfl
@[simp] theorem countDown_params (s : State) : (s.countDown).params = s.params := rfl
@[simp] theorem countDown_host (s : State) : (s.countDown).host = s.host := rfl

@[simp] theorem writeOk_rsQ (s : State) : (s.writeOk).rsQ = s.rsQ := rfl
@[simp] theorem writeOk_eQ (s : State) : (s.writeOk).eQ = s.eQ := rfl
@[simp] theorem writeOk_dQ (s : State) : (s.writeOk).dQ = s.dQ := rfl
@[simp] theorem writeOk_phase (s : State) : (s.writeOk).phase = s.phase := rfl
@[simp] theorem writeOk_timer (s : State) : (s.writeOk).timer = s.timer := rfl
@[simp] theorem writeOk_seqActive (s : State) : (s.writeOk).seqActive = s.seqActive := rfl
@[simp] theorem writeOk_seqIdx (s : State) : (s.writeOk).seqIdx = s.seqIdx := rfl
@[simp] theorem writeOk_errCode (s : State) : (s.writeOk).errCode = errOk := rfl
@[simp] theorem writeOk_errSticky (s : State) : (s.writeOk).errSticky = s.errSticky := rfl
@[simp] theorem writeOk_log (s : State) : (s.writeOk).log = s.log := rfl
@[simp] theorem writeOk_params (s : State) : (s.writeOk).params = s.params := rfl
@[simp] theorem writeOk_host (s : State) : (s.writeOk).host = s.host := rfl

@[simp] theorem raise_rsQ (s : State) (code : BitVec 2) : (s.raise code).rsQ = s.rsQ := rfl
@[simp] theorem raise_eQ (s : State) (code : BitVec 2) : (s.raise code).eQ = s.eQ := rfl
@[simp] theorem raise_dQ (s : State) (code : BitVec 2) : (s.raise code).dQ = s.dQ := rfl
@[simp] theorem raise_phase (s : State) (code : BitVec 2) : (s.raise code).phase = s.phase := rfl
@[simp] theorem raise_timer (s : State) (code : BitVec 2) : (s.raise code).timer = s.timer := rfl
@[simp] theorem raise_seqActive (s : State) (code : BitVec 2) : (s.raise code).seqActive = s.seqActive := rfl
@[simp] theorem raise_seqIdx (s : State) (code : BitVec 2) : (s.raise code).seqIdx = s.seqIdx := rfl
@[simp] theorem raise_errCode (s : State) (code : BitVec 2) : (s.raise code).errCode = code := rfl
@[simp] theorem raise_errSticky (s : State) (code : BitVec 2) : (s.raise code).errSticky = true := rfl
@[simp] theorem raise_log (s : State) (code : BitVec 2) : (s.raise code).log = s.log := rfl
@[simp] theorem raise_params (s : State) (code : BitVec 2) : (s.raise code).params = s.params := rfl
@[simp] theorem raise_host (s : State) (code : BitVec 2) : (s.raise code).host = s.host := rfl

@[simp] theorem resetEdge_rsQ (s : State) : (s.resetEdge).rsQ = false := rfl
@[simp] theorem resetEdge_eQ (s : State) : (s.resetEdge).eQ = false := rfl
@[simp] theorem resetEdge_dQ (s : State) : (s.resetEdge).dQ = 0x00 := rfl
@[simp] theorem resetEdge_phase (s : State) : (s.resetEdge).phase = Phase.idle := rfl
@[simp] theorem resetEdge_timer (s : State) : (s.resetEdge).timer = 0 := rfl
@[simp] theorem resetEdge_seqActive (s : State) : (s.resetEdge).seqActive = false := rfl
@[simp] theorem resetEdge_seqIdx (s : State) : (s.resetEdge).seqIdx = 0 := rfl
@[simp] theorem resetEdge_errCode (s : State) : (s.resetEdge).errCode = errOk := rfl
@[simp] theorem resetEdge_errSticky (s : State) : (s.resetEdge).errSticky = false := rfl
@[simp] theorem resetEdge_log (s : State) : (s.resetEdge).log = if s.eQ then s.log ++ [.truncated s.rsQ s.dQ (s.params.tHold - s.timer)] else s.log := rfl
@[simp] theorem resetEdge_params (s : State) : (s.resetEdge).params = s.params := rfl
@[simp] theorem resetEdge_host (s : State) : (s.resetEdge).host = s.host := rfl

@[simp] theorem setHost_rsQ (s : State) (moves : List HostMove) : (s.setHost moves).rsQ = s.rsQ := rfl
@[simp] theorem setHost_eQ (s : State) (moves : List HostMove) : (s.setHost moves).eQ = s.eQ := rfl
@[simp] theorem setHost_dQ (s : State) (moves : List HostMove) : (s.setHost moves).dQ = s.dQ := rfl
@[simp] theorem setHost_phase (s : State) (moves : List HostMove) : (s.setHost moves).phase = s.phase := rfl
@[simp] theorem setHost_timer (s : State) (moves : List HostMove) : (s.setHost moves).timer = s.timer := rfl
@[simp] theorem setHost_seqActive (s : State) (moves : List HostMove) : (s.setHost moves).seqActive = s.seqActive := rfl
@[simp] theorem setHost_seqIdx (s : State) (moves : List HostMove) : (s.setHost moves).seqIdx = s.seqIdx := rfl
@[simp] theorem setHost_errCode (s : State) (moves : List HostMove) : (s.setHost moves).errCode = s.errCode := rfl
@[simp] theorem setHost_errSticky (s : State) (moves : List HostMove) : (s.setHost moves).errSticky = s.errSticky := rfl
@[simp] theorem setHost_log (s : State) (moves : List HostMove) : (s.setHost moves).log = s.log := rfl
@[simp] theorem setHost_params (s : State) (moves : List HostMove) : (s.setHost moves).params = s.params := rfl
@[simp] theorem setHost_host (s : State) (moves : List HostMove) : (s.setHost moves).host = moves := rfl

@[simp] theorem setHost_setHost (s : State) (m m' : List HostMove) : (s.setHost m).setHost m' = s.setHost m' := rfl

@[simp] theorem queueRequests_rsQ (s : State) (rs : List Request) : (s.queueRequests rs).rsQ = s.rsQ := rfl
@[simp] theorem queueRequests_eQ (s : State) (rs : List Request) : (s.queueRequests rs).eQ = s.eQ := rfl
@[simp] theorem queueRequests_dQ (s : State) (rs : List Request) : (s.queueRequests rs).dQ = s.dQ := rfl
@[simp] theorem queueRequests_phase (s : State) (rs : List Request) : (s.queueRequests rs).phase = s.phase := rfl
@[simp] theorem queueRequests_timer (s : State) (rs : List Request) : (s.queueRequests rs).timer = s.timer := rfl
@[simp] theorem queueRequests_seqActive (s : State) (rs : List Request) : (s.queueRequests rs).seqActive = s.seqActive := rfl
@[simp] theorem queueRequests_seqIdx (s : State) (rs : List Request) : (s.queueRequests rs).seqIdx = s.seqIdx := rfl
@[simp] theorem queueRequests_errCode (s : State) (rs : List Request) : (s.queueRequests rs).errCode = s.errCode := rfl
@[simp] theorem queueRequests_errSticky (s : State) (rs : List Request) : (s.queueRequests rs).errSticky = s.errSticky := rfl
@[simp] theorem queueRequests_log (s : State) (rs : List Request) : (s.queueRequests rs).log = s.log := rfl
@[simp] theorem queueRequests_params (s : State) (rs : List Request) : (s.queueRequests rs).params = s.params := rfl
@[simp] theorem queueRequests_host (s : State) (rs : List Request) : (s.queueRequests rs).host = rs.map HostMove.request ++ s.host := rfl

@[simp] theorem presentFirst_rsQ (s : State) (nbits w : Nat) : (s.presentFirst nbits w).rsQ = s.rsQ := rfl
@[simp] theorem presentFirst_eQ (s : State) (nbits w : Nat) : (s.presentFirst nbits w).eQ = s.eQ := rfl
@[simp] theorem presentFirst_dQ (s : State) (nbits w : Nat) : (s.presentFirst nbits w).dQ = s.dQ := rfl
@[simp] theorem presentFirst_phase (s : State) (nbits w : Nat) : (s.presentFirst nbits w).phase = s.phase := rfl
@[simp] theorem presentFirst_timer (s : State) (nbits w : Nat) : (s.presentFirst nbits w).timer = s.timer := rfl
@[simp] theorem presentFirst_seqActive (s : State) (nbits w : Nat) : (s.presentFirst nbits w).seqActive = s.seqActive := rfl
@[simp] theorem presentFirst_seqIdx (s : State) (nbits w : Nat) : (s.presentFirst nbits w).seqIdx = s.seqIdx := rfl
@[simp] theorem presentFirst_errCode (s : State) (nbits w : Nat) : (s.presentFirst nbits w).errCode = s.errCode := rfl
@[simp] theorem presentFirst_errSticky (s : State) (nbits w : Nat) : (s.presentFirst nbits w).errSticky = s.errSticky := rfl
@[simp] theorem presentFirst_log (s : State) (nbits w : Nat) : (s.presentFirst nbits w).log = s.log := rfl
@[simp] theorem presentFirst_params (s : State) (nbits w : Nat) : (s.presentFirst nbits w).params = s.params := rfl
@[simp] theorem presentFirst_host (s : State) (nbits w : Nat) : (s.presentFirst nbits w).host = .request (requestOfTable nbits w) :: s.host := rfl

@[simp] theorem resetWith_rsQ (p : Params) : (resetWith p).rsQ = false := rfl
@[simp] theorem resetWith_eQ (p : Params) : (resetWith p).eQ = false := rfl
@[simp] theorem resetWith_dQ (p : Params) : (resetWith p).dQ = 0 := rfl
@[simp] theorem resetWith_phase (p : Params) : (resetWith p).phase = Phase.idle := rfl
@[simp] theorem resetWith_timer (p : Params) : (resetWith p).timer = 0 := rfl
@[simp] theorem resetWith_seqActive (p : Params) : (resetWith p).seqActive = false := rfl
@[simp] theorem resetWith_seqIdx (p : Params) : (resetWith p).seqIdx = 0 := rfl
@[simp] theorem resetWith_errCode (p : Params) : (resetWith p).errCode = errOk := rfl
@[simp] theorem resetWith_errSticky (p : Params) : (resetWith p).errSticky = false := rfl
@[simp] theorem resetWith_log (p : Params) : (resetWith p).log = [] := rfl
@[simp] theorem resetWith_params (p : Params) : (resetWith p).params = p := rfl
@[simp] theorem resetWith_host (p : Params) : (resetWith p).host = [] := rfl

end Sys2Proof.Machine.State
end

