-- ==== Sys2Proof/Laws/Ops.lean ====
section
/-! SUPPORT. What each shared operation does, once: the provers cite these instead of unfolding the operation. -/

namespace Sys2Proof.Machine

variable {s : State}

/-! ## Phases -/

theorem edge_idle (f : State → State) (h : s.phase = .idle) : s.edge f = f s := by simp [State.edge, h]

theorem edge_setup (f : State → State) (h : s.phase = .setup) : s.edge f = s.setupEdge := by simp [State.edge, h]

theorem edge_pulse (f : State → State) (h : s.phase = .pulse) : s.edge f = s.pulseEdge := by simp [State.edge, h]

theorem edge_gap (f : State → State) (h : s.phase = .gap) : s.edge f = s.gapEdge := by simp [State.edge, h]

/-- While the block is busy, what it would do in IDLE does not matter. -/
theorem edge_busy (f g : State → State) (h : s.phase ≠ .idle) : s.edge f = s.edge g := by
  cases hp : s.phase <;> simp_all [State.edge]

theorem setupEdge_zero (h : s.timer = 0) :
    s.setupEdge = { s with eQ := true, phase := .pulse, timer := s.params.tHold - 1 } := by
  simp [State.setupEdge, h, State.enterPhase]

theorem setupEdge_pos (h : s.timer ≠ 0) : s.setupEdge = { s with timer := s.timer - 1 } := by
  simp [State.setupEdge, h, State.countDown]

theorem pulseEdge_zero (h : s.timer = 0) :
    s.pulseEdge = { s with
      eQ := false, log := s.log ++ [.latched s.rsQ s.dQ], phase := .gap, timer := s.params.tGap - 1 } := by
  simp [State.pulseEdge, h, State.enterPhase]

theorem pulseEdge_pos (h : s.timer ≠ 0) : s.pulseEdge = { s with timer := s.timer - 1 } := by
  simp [State.pulseEdge, h, State.countDown]

theorem gapEdge_zero (h : s.timer = 0) : s.gapEdge = s.gapEnd := by simp [State.gapEdge, h]

theorem gapEdge_pos (h : s.timer ≠ 0) : s.gapEdge = { s with timer := s.timer - 1 } := by
  simp [State.gapEdge, h, State.countDown]

theorem emit_eq (w : BusWord) (s : State) :
    s.emit w = { s with rsQ := w.rs, dQ := w.byte, phase := .setup, timer := s.params.tSetup - 1 } := rfl

theorem gapEnd_last (h : s.seqActive = false ∨ s.seqIdx = 3) :
    s.gapEnd = { s with phase := .idle, seqActive := false, seqIdx := 0 } := by
  rcases h with h | h <;> simp [State.gapEnd, State.seqContinues, h]

theorem gapEnd_next (h : s.seqActive = true) (h3 : s.seqIdx ≠ 3) :
    s.gapEnd = { s with
      rsQ := (initWord (s.seqIdx + 1)).rs, dQ := (initWord (s.seqIdx + 1)).byte, phase := .setup,
      timer := s.params.tSetup - 1, seqIdx := s.seqIdx + 1 } := by
  simp [State.gapEnd, State.seqContinues, h, h3, State.emit, State.enterPhase, State.setBus]

/-- Everything an edge with `rst = 0` can do, by the phase and the timer. -/
theorem edge_cases (f : State → State) (s : State) :
    (s.phase = .idle ∧ s.edge f = f s) ∨
    (s.phase ≠ .idle ∧ s.timer ≠ 0 ∧ s.edge f = { s with timer := s.timer - 1 }) ∨
    (s.phase = .setup ∧ s.timer = 0 ∧
      s.edge f = { s with eQ := true, phase := .pulse, timer := s.params.tHold - 1 }) ∨
    (s.phase = .pulse ∧ s.timer = 0 ∧
      s.edge f = { s with
        eQ := false, log := s.log ++ [.latched s.rsQ s.dQ], phase := .gap, timer := s.params.tGap - 1 }) ∨
    (s.phase = .gap ∧ s.timer = 0 ∧ s.seqActive = true ∧ s.seqIdx ≠ 3 ∧
      s.edge f = { s with
        rsQ := (initWord (s.seqIdx + 1)).rs, dQ := (initWord (s.seqIdx + 1)).byte, phase := .setup,
        timer := s.params.tSetup - 1, seqIdx := s.seqIdx + 1 }) ∨
    (s.phase = .gap ∧ s.timer = 0 ∧ (s.seqActive = false ∨ s.seqIdx = 3) ∧
      s.edge f = { s with phase := .idle, seqActive := false, seqIdx := 0 }) := by
  by_cases ht : s.timer = 0
  · cases hp : s.phase with
    | idle => exact .inl ⟨rfl, edge_idle f hp⟩
    | setup => exact .inr (.inr (.inl ⟨rfl, ht, by rw [edge_setup f hp, setupEdge_zero ht]⟩))
    | pulse => exact .inr (.inr (.inr (.inl ⟨rfl, ht, by rw [edge_pulse f hp, pulseEdge_zero ht]⟩)))
    | gap =>
      by_cases hc : s.seqActive = true ∧ s.seqIdx ≠ 3
      · exact .inr (.inr (.inr (.inr (.inl
          ⟨rfl, ht, hc.1, hc.2, by rw [edge_gap f hp, gapEdge_zero ht, gapEnd_next hc.1 hc.2]⟩))))
      · have hl : s.seqActive = false ∨ s.seqIdx = 3 := by
          by_cases ha : s.seqActive = true
          · exact .inr (by by_contra h3; exact hc ⟨ha, h3⟩)
          · exact .inl (by simpa using ha)
        exact .inr (.inr (.inr (.inr (.inr
          ⟨rfl, ht, hl, by rw [edge_gap f hp, gapEdge_zero ht, gapEnd_last hl]⟩))))
  · cases hp : s.phase with
    | idle => exact .inl ⟨rfl, edge_idle f hp⟩
    | setup => exact .inr (.inl ⟨by simp, ht, by rw [edge_setup f hp, setupEdge_pos ht, hp]⟩)
    | pulse => exact .inr (.inl ⟨by simp, ht, by rw [edge_pulse f hp, pulseEdge_pos ht, hp]⟩)
    | gap => exact .inr (.inl ⟨by simp, ht, by rw [edge_gap f hp, gapEdge_pos ht, hp]⟩)

/-! ## Acceptance -/

theorem present_idle (o : Decoded) (h : s.phase = .idle) : s.present o = s.accept o := edge_idle _ h

theorem present_busy (o : Decoded) (h : s.phase ≠ .idle) : s.present o = s.edge id := edge_busy _ _ h

theorem accept_word (w : BusWord) (s : State) :
    s.accept (.word w) = { s with
      errCode := errOk, rsQ := w.rs, dQ := w.byte, phase := .setup, timer := s.params.tSetup - 1 } := rfl

theorem accept_initSeq (s : State) :
    s.accept .initSeq = { s with
      errCode := errOk, seqActive := true, seqIdx := 0, rsQ := false, dQ := 0x01, phase := .setup,
      timer := s.params.tSetup - 1 } := rfl

theorem accept_error (c : BitVec 2) (s : State) : s.accept (.error c) = { s with errCode := c, errSticky := true } :=
  rfl

theorem startWord_free (w : BusWord) (h : s.phase = .idle ∨ (s.phase = .gap ∧ s.timer = 0)) :
    s.startWord w = s.emit w := if_pos h

theorem startWord_busy (w : BusWord) (h : ¬(s.phase = .idle ∨ (s.phase = .gap ∧ s.timer = 0))) :
    s.startWord w = s.edge id := if_neg h

/-! ## The block does not read the host's moves -/

theorem countDown_setHost (s : State) (h : List HostMove) : (s.setHost h).countDown = s.countDown.setHost h := rfl

theorem setupEdge_setHost (s : State) (h : List HostMove) : (s.setHost h).setupEdge = s.setupEdge.setHost h := by
  by_cases ht : s.timer = 0
  · simp only [State.setupEdge, State.setHost_timer, ht, if_true]
    rfl
  · simp only [State.setupEdge, State.setHost_timer, ht, if_false, countDown_setHost]

theorem pulseEdge_setHost (s : State) (h : List HostMove) : (s.setHost h).pulseEdge = s.pulseEdge.setHost h := by
  by_cases ht : s.timer = 0
  · simp only [State.pulseEdge, State.setHost_timer, ht, if_true]
    rfl
  · simp only [State.pulseEdge, State.setHost_timer, ht, if_false, countDown_setHost]

theorem gapEdge_setHost (s : State) (h : List HostMove) : (s.setHost h).gapEdge = s.gapEdge.setHost h := by
  by_cases ht : s.timer = 0
  · rw [gapEdge_zero ht, gapEdge_zero (s := s.setHost h) ht]
    have hc : (s.setHost h).seqContinues = s.seqContinues := rfl
    unfold State.gapEnd
    rw [hc]
    cases s.seqContinues <;> rfl
  · simp only [State.gapEdge, State.setHost_timer, ht, if_false, countDown_setHost]

theorem accept_setHost (o : Decoded) (s : State) (h : List HostMove) :
    (s.setHost h).accept o = (s.accept o).setHost h := by
  cases o <;> rfl

theorem edge_setHost {f : State → State} (hf : ∀ s h, f (s.setHost h) = (f s).setHost h) (s : State)
    (h : List HostMove) : (s.setHost h).edge f = (s.edge f).setHost h := by
  simp only [State.edge, State.setHost_phase]
  split
  · exact hf s h
  · exact setupEdge_setHost s h
  · exact pulseEdge_setHost s h
  · exact gapEdge_setHost s h

theorem present_setHost (o : Decoded) (s : State) (h : List HostMove) :
    (s.setHost h).present o = (s.present o).setHost h := edge_setHost (accept_setHost o) s h

theorem resetEdge_setHost (s : State) (h : List HostMove) : (s.setHost h).resetEdge = s.resetEdge.setHost h := rfl

/-! ## The host's side -/

@[simp] theorem withHost_next (host : List HostMove) (t : State) :
    withHost host (.next t) = .next (t.setHost host) := rfl

@[simp] theorem accepts_iff (p : Ports) (s : State) :
    p.accepts s = true ↔ p.rst = false ∧ p.reqValid = true ∧ s.phase = .idle := by
  simp [Ports.accepts, State.reqReady, and_assoc]

theorem left_presenting (r : Request) (rs : List Request) (rest : List HostMove) (s : State) :
    (Driven.requests r rs rest).left s =
      if s.phase = .idle then rs.map HostMove.request ++ rest
      else (r :: rs).map HostMove.request ++ rest := by
  cases hp : s.phase <;> simp [Driven.left, Driven.requests, Ports.presenting, Ports.accepts, State.reqReady, hp]

@[simp] theorem event_quiet (s : State) : Ports.quiet.event s = .nothing := by
  simp [Ports.event, Ports.quiet, Ports.accepts]

@[simp] theorem event_presenting (r : Request) (s : State) :
    (Ports.presenting r).event s = if s.phase = .idle then .accepted r else .nothing := by
  cases hp : s.phase <;> simp [Ports.event, Ports.presenting, Ports.accepts, State.reqReady, hp]

theorem charRequest_of_fits {c : CharOperand} (h : c.fits = true) : charRequest c = .ok (sendDataRequest c.arg) := by
  cases c <;> simp [charRequest, charArg, h]

theorem stringRequests_of_fits {cs : List Char} (h : ∀ c ∈ cs, (CharOperand.char c).fits = true) :
    stringRequests cs = .ok (cs.map fun c => sendDataRequest (CharOperand.char c).arg) := by
  induction cs with
  | nil => rfl
  | cons c cs ih =>
    simp only [List.mem_cons, forall_eq_or_imp] at h
    simp [stringRequests, charRequest_of_fits h.1, ih h.2]

/-- Moves that all fit drive some levels, and the moves left all fit again. -/
theorem drivenBy_fits {moves : List HostMove} (h : ∀ m ∈ moves, m.fits = true) :
    ∃ d, drivenBy moves = .ok d ∧ ∀ (s : State), ∀ m ∈ d.left s, m.fits = true := by
  have hreq : ∀ (r : Request) (rs : List Request) (rest : List HostMove), (∀ m ∈ rest, m.fits = true) →
      ∀ (s : State), ∀ m ∈ (Driven.requests r rs rest).left s, m.fits = true := by
    intro r rs rest hrest s m hm
    rw [left_presenting] at hm
    have hm : m ∈ (r :: rs).map HostMove.request ++ rest := by
      split at hm
      · exact List.mem_cons_of_mem _ hm
      · exact hm
    rcases List.mem_append.mp hm with hm | hm
    · obtain ⟨q, -, rfl⟩ := List.mem_map.mp hm
      rfl
    · exact hrest m hm
  induction moves with
  | nil => exact ⟨_, rfl, fun s m hm => by simp [Driven.left] at hm⟩
  | cons m rest ih =>
    simp only [List.mem_cons, forall_eq_or_imp] at h
    obtain ⟨hm, hrest⟩ := h
    cases m with
    | drive p => exact ⟨_, rfl, fun s m hm => hrest m (by simpa [Driven.left] using hm)⟩
    | request r => exact ⟨_, rfl, hreq r [] rest hrest⟩
    | writeChar c => exact ⟨_, by simp only [drivenBy, charRequest_of_fits hm]; rfl, hreq _ [] rest hrest⟩
    | writeString cs =>
      have hs := stringRequests_of_fits (cs := cs) (by simpa [HostMove.fits, Instr.wellFormed] using hm)
      cases cs with
      | nil => simpa only [drivenBy, stringRequests] using ih hrest
      | cons c cs => exact ⟨_, by simp only [drivenBy, hs, List.map_cons]; rfl, hreq _ _ rest hrest⟩

end Sys2Proof.Machine
end

