-- ==== Sys2Proof/Laws/PerInstr.lean ====
section
/-! SUPPORT. Laws of every instruction as syntax. Family `TableRow`: each word the encoder gives an instruction meets
the match and mask of the instruction's row of `spec/opcode_table.json`. -/

namespace Sys2Proof.Laws.TableRow

/-- The match and mask of a request row (`mask` is 0x7800 in all of them) or of a bus-word row. -/
def row : Instr → Nat × Nat
  | .sendCmd _ _ => (0x0000, 0x7800)
  | .sendData _ _ => (0x0800, 0x7800)
  | .clear _ _ => (0x1000, 0x7800)
  | .home _ _ => (0x1800, 0x7800)
  | .entryMode _ _ _ _ => (0x2000, 0x7800)
  | .displayCtrl _ _ _ _ => (0x2800, 0x7800)
  | .shift _ _ _ _ => (0x3000, 0x7800)
  | .functionSet _ _ _ _ => (0x3800, 0x7800)
  | .setCgram _ _ => (0x4000, 0x7800)
  | .setDdram _ _ => (0x4800, 0x7800)
  | .init _ _ => (0x5000, 0x7800)
  | .readFlag _ _ => (0x5800, 0x7800)
  | .readData _ _ => (0x6000, 0x7800)
  | .reservedD _ _ => (0x6800, 0x7800)
  | .reservedE _ _ => (0x7000, 0x7800)
  | .reservedF _ _ => (0x7800, 0x7800)
  | .busClear => (0x001, 0x1FF)
  | .busHome => (0x002, 0x1FF)
  | .busEntryModeSet _ _ => (0x004, 0x1FC)
  | .busDisplayControl _ _ _ => (0x008, 0x1F8)
  | .busCursorDisplayShift _ _ => (0x010, 0x1F3)
  | .busFunctionSet _ _ _ => (0x020, 0x1E3)
  | .busSetCgramAddr _ => (0x040, 0x1C0)
  | .busSetDdramAddr _ => (0x080, 0x180)
  | .busData _ => (0x100, 0x100)
  | .writeChar _ => (0x0800, 0x7800)
  | .writeString _ => (0x0800, 0x7800)

/-- The word meets the row: `word & mask == match`. -/
def Meets (r : Nat × Nat) : CodeWord → Prop
  | .req w => w &&& BitVec.ofNat 15 r.2 = BitVec.ofNat 15 r.1
  | .bus w => w &&& BitVec.ofNat 9 r.2 = BitVec.ofNat 9 r.1

def Statement (i : Instr) : Prop := ∀ c ∈ encode i, Meets (row i) c

/-- The opcode mask keeps the opcode. -/
theorem word_mask (r : Request) : r.word &&& 0x7800#15 = r.op.setWidth 15 <<< 11 := by
  apply BitVec.eq_of_getLsbD_eq
  intro i hi
  have hm : (0x7800#15).getLsbD i = decide (11 ≤ i) := by
    revert i
    decide
  rw [BitVec.getLsbD_and, Request.word_getLsbD, hm, BitVec.getLsbD_shiftLeft, BitVec.getLsbD_setWidth]
  by_cases h11 : i < 11
  · simp [h11]
  · have h8 : ¬ i < 8 := by omega
    have hge : 11 ≤ i := by omega
    have hlt : i - 11 < 15 := by omega
    simp [h11, h8, hge, hlt, hi]

theorem meets_request (op : BitVec 4) (flags : BitVec 3) (arg : Byte) (m : Nat)
    (h : op.setWidth 15 <<< 11 = BitVec.ofNat 15 m) : Meets (m, 0x7800) (.req (Request.word ⟨op, flags, arg⟩)) :=
  (word_mask _).trans h

theorem of_single {i : Instr} {c : CodeWord} (he : encode i = [c]) (h : Meets (row i) c) : Statement i := by
  intro c' hc
  rw [he, List.mem_singleton] at hc
  exact hc ▸ h

theorem sendCmd (flags : BitVec 3) (arg : Byte) : Statement (.sendCmd flags arg) :=
  of_single rfl (meets_request _ _ _ _ (by decide))

theorem sendData (flags : BitVec 3) (arg : Byte) : Statement (.sendData flags arg) :=
  of_single rfl (meets_request _ _ _ _ (by decide))

theorem clear (flags : BitVec 3) (arg : Byte) : Statement (.clear flags arg) :=
  of_single rfl (meets_request _ _ _ _ (by decide))

theorem home (flags : BitVec 3) (arg : Byte) : Statement (.home flags arg) :=
  of_single rfl (meets_request _ _ _ _ (by decide))

theorem entryMode (ignored increment shift : Bool) (arg : Byte) :
    Statement (.entryMode ignored increment shift arg) :=
  of_single rfl (meets_request _ _ _ _ (by decide))

theorem displayCtrl (on cursor blink : Bool) (arg : Byte) : Statement (.displayCtrl on cursor blink arg) :=
  of_single rfl (meets_request _ _ _ _ (by decide))

theorem shift (ignored display right : Bool) (arg : Byte) : Statement (.shift ignored display right arg) :=
  of_single rfl (meets_request _ _ _ _ (by decide))

theorem functionSet (eightBit twoLine fiveByTen : Bool) (arg : Byte) :
    Statement (.functionSet eightBit twoLine fiveByTen arg) :=
  of_single rfl (meets_request _ _ _ _ (by decide))

theorem setCgram (flags : BitVec 3) (address : Byte) : Statement (.setCgram flags address) :=
  of_single rfl (meets_request _ _ _ _ (by decide))

theorem setDdram (flags : BitVec 3) (address : Byte) : Statement (.setDdram flags address) :=
  of_single rfl (meets_request _ _ _ _ (by decide))

theorem init (flags : BitVec 3) (arg : Byte) : Statement (.init flags arg) :=
  of_single rfl (meets_request _ _ _ _ (by decide))

theorem readFlag (flags : BitVec 3) (arg : Byte) : Statement (.readFlag flags arg) :=
  of_single rfl (meets_request _ _ _ _ (by decide))

theorem readData (flags : BitVec 3) (arg : Byte) : Statement (.readData flags arg) :=
  of_single rfl (meets_request _ _ _ _ (by decide))

theorem reservedD (flags : BitVec 3) (arg : Byte) : Statement (.reservedD flags arg) :=
  of_single rfl (meets_request _ _ _ _ (by decide))

theorem reservedE (flags : BitVec 3) (arg : Byte) : Statement (.reservedE flags arg) :=
  of_single rfl (meets_request _ _ _ _ (by decide))

theorem reservedF (flags : BitVec 3) (arg : Byte) : Statement (.reservedF flags arg) :=
  of_single rfl (meets_request _ _ _ _ (by decide))

theorem busClear : Statement .busClear := of_single rfl (by unfold Meets; decide)

theorem busHome : Statement .busHome := of_single rfl (by unfold Meets; decide)

theorem busEntryModeSet (increment shift : Bool) : Statement (.busEntryModeSet increment shift) :=
  of_single rfl (by unfold Meets; revert increment shift; decide)

theorem busDisplayControl (on cursor blink : Bool) : Statement (.busDisplayControl on cursor blink) :=
  of_single rfl (by unfold Meets; revert on cursor blink; decide)

theorem busCursorDisplayShift (display right : Bool) : Statement (.busCursorDisplayShift display right) :=
  of_single rfl (by unfold Meets; revert display right; decide)

theorem busFunctionSet (eightBit twoLine fiveByTen : Bool) :
    Statement (.busFunctionSet eightBit twoLine fiveByTen) :=
  of_single rfl (by unfold Meets; revert eightBit twoLine fiveByTen; decide)

theorem busSetCgramAddr (address : BitVec 6) : Statement (.busSetCgramAddr address) :=
  of_single rfl (by unfold Meets; revert address; decide)

theorem busSetDdramAddr (address : BitVec 7) : Statement (.busSetDdramAddr address) :=
  of_single rfl (by unfold Meets; revert address; decide)

theorem busData (data : Byte) : Statement (.busData data) :=
  of_single rfl (by unfold Meets; revert data; decide)

theorem writeChar (c : CharOperand) : Statement (.writeChar c) :=
  of_single rfl (meets_request _ _ _ _ (by decide))

theorem writeString (s : List Char) : Statement (.writeString s) := by
  intro c hc
  simp only [encode, List.mem_map] at hc
  obtain ⟨x, -, rfl⟩ := hc
  exact meets_request _ _ _ _ (by decide)

end Sys2Proof.Laws.TableRow
end

