-- ==== Sys2Proof/Laws/Step.lean ====
section
/-! SUPPORT. What a step can do, said once: every request runs as one acceptance, and a step is a reset edge, an edge at
which a request is presented, or an edge without one, with the host's moves left. -/

namespace Sys2Proof.Machine

/-- What a request may ask for: the error codes are the two of R27. -/
def Decoded.Legal : Decoded → Prop
  | .word _ => True
  | .initSeq => True
  | .error c => c = errUnsupported ∨ c = errReserved

/-- An instruction of a request word runs as `present` of what it asks for, whatever the state. -/
theorem exec_req (i : Instr) (h : i.format = .req) :
    ∃ o : Decoded, o.Legal ∧ ∀ s : State, exec i s = .next (s.present o) := by
  cases i <;> first
    | (simp [Instr.format] at h; done)
    | exact ⟨.error errUnsupported, .inl rfl, fun _ => rfl⟩
    | exact ⟨.error errReserved, .inr rfl, fun _ => rfl⟩
    | exact ⟨.initSeq, trivial, fun _ => rfl⟩
    | exact ⟨.word _, trivial, fun _ => rfl⟩

theorem decodeRequest_format (r : Request) : (decodeRequest r).format = .req := by
  unfold decodeRequest
  split <;> rfl

theorem exec_decodeRequest (r : Request) :
    ∃ o : Decoded, o.Legal ∧ ∀ s : State, exec (decodeRequest r) s = .next (s.present o) :=
  exec_req _ (decodeRequest_format r)

/-- Everything a step that answers a next state can have done. -/
theorem step_cases {s t : State} (h : step s = .next t) :
    ∃ d, drivenBy s.host = .ok d ∧
      ((d.ports.rst = true ∧ t = s.resetEdge.setHost (d.left s)) ∨
       (d.ports.rst = false ∧ d.ports.reqValid = true ∧ ∃ o : Decoded, o.Legal ∧
         (∀ u : State, exec (decodeRequest d.ports.req) u = .next (u.present o)) ∧
         t = (s.present o).setHost (d.left s)) ∨
       (d.ports.rst = false ∧ d.ports.reqValid = false ∧ t = (s.edge id).setHost (d.left s))) := by
  unfold step hostedEdge at h
  split at h
  next d hd =>
    refine ⟨d, hd, ?_⟩
    unfold clockEdge at h
    cases hr : d.ports.rst
    · cases hv : d.ports.reqValid
      · simp [hr, hv] at h
        exact .inr (.inr ⟨rfl, rfl, h.symm⟩)
      · obtain ⟨o, ho, he⟩ := exec_decodeRequest d.ports.req
        simp [hr, hv, he] at h
        exact .inr (.inl ⟨rfl, rfl, o, ho, he, h.symm⟩)
    · simp [hr] at h
      exact .inl ⟨rfl, h.symm⟩
  next e he => cases h

/-- The only way a step does not answer a next state: the host's assembler refuses a pseudo-operation. -/
theorem step_next_or_refused (s : State) :
    (∃ t, step s = .next t) ∨ (∃ e, drivenBy s.host = .error e ∧ step s = .refused e) := by
  cases hd : drivenBy s.host with
  | error e => exact .inr ⟨e, rfl, by simp [step, hostedEdge, hd]⟩
  | ok d =>
    refine .inl ?_
    unfold step hostedEdge clockEdge
    obtain ⟨o, -, he⟩ := exec_decodeRequest d.ports.req
    cases hr : d.ports.rst <;> cases hv : d.ports.reqValid <;> simp [hd, hr, hv, he]

/-- Every step leaves moves that fit where all the moves fit. -/
theorem step_keeps_fits {s t : State} (hf : ∀ m ∈ s.host, m.fits = true) (h : step s = .next t) :
    ∀ m ∈ t.host, m.fits = true := by
  obtain ⟨d, hd, hl⟩ := drivenBy_fits hf
  obtain ⟨d', hd', hc⟩ := step_cases h
  have hdd : d = d' := by simpa [hd] using hd'
  subst hdd
  rcases hc with ⟨-, rfl⟩ | ⟨-, -, o, -, -, rfl⟩ | ⟨-, -, rfl⟩ <;> exact hl s

/-- An edge does not read the host's moves. -/
theorem withHost_clockEdge_setHost (h h' : List HostMove) (p : Ports) (s : State) :
    withHost h' (clockEdge p (s.setHost h)) = withHost h' (clockEdge p s) := by
  obtain ⟨o, -, he⟩ := exec_decodeRequest p.req
  unfold clockEdge
  cases p.rst
  · cases p.reqValid
    · simp [edge_setHost (f := id) (fun _ _ => rfl)]
    · simp [he, present_setHost]
  · simp [resetEdge_setHost]

/-- Two lists of moves that drive the same give the same step. -/
theorem step_of_drivenBy {s : State} {moves : List HostMove} (h : drivenBy s.host = drivenBy moves) :
    step s = step (s.setHost moves) := by
  unfold step hostedEdge
  simp only [h, State.setHost_host]
  cases drivenBy moves with
  | error e => rfl
  | ok d => exact (withHost_clockEdge_setHost _ _ _ _).symm

end Sys2Proof.Machine
end

