-- ==== Sys2Proof/Laws/Run.lean ====
section
/-! SUPPORT. Runs of several edges, and the steps of a host that presents requests one after the other. -/

namespace Sys2Proof.Machine

theorem run_zero (s : State) : Sys2Proof.core.run 0 s = .next s := rfl

theorem run_succ {s t : State} (k : Nat) (h : step s = .next t) :
    Sys2Proof.core.run (k + 1) s = Sys2Proof.core.run k t := by
  have h' : Sys2Proof.core.step s = .next t := h
  simp only [Host.Core.run, h']

theorem run_one {s t : State} (h : step s = .next t) : Sys2Proof.core.run 1 s = .next t := run_succ 0 h

theorem run_add {s t : State} (m n : Nat) (h : Sys2Proof.core.run m s = .next t) :
    Sys2Proof.core.run (m + n) s = Sys2Proof.core.run n t := by
  induction m generalizing s with
  | zero =>
    cases h
    rw [Nat.zero_add]
  | succ m ih =>
    cases hs : step s with
    | next s' =>
      rw [run_succ m hs] at h
      rw [Nat.add_right_comm, run_succ (m + n) hs]
      exact ih h
    | fault r => cases r
    | refused r =>
      have h' : Sys2Proof.core.step s = .refused r := hs
      simp only [Host.Core.run, h'] at h
      cases h

/-- With no other moves than requests, the host never resets, and a busy block goes on as it would without them. -/
theorem step_busy {s : State} {rs : List Request} (hb : s.phase ≠ .idle) (hh : s.host = rs.map HostMove.request) :
    step s = .next ((s.edge id).setHost s.host) := by
  unfold step hostedEdge
  cases rs with
  | nil => simp [hh, drivenBy, clockEdge, Ports.quiet, Driven.left]
  | cons r rs =>
    obtain ⟨o, -, he⟩ := exec_decodeRequest r
    have hl := left_presenting r [] (rs.map HostMove.request) s
    simp only [hb, if_false] at hl
    simp only [hh, List.map_cons, drivenBy, hl]
    simp [clockEdge, Driven.requests, Ports.presenting, he, present_busy o hb]

/-- In IDLE the first request is accepted. -/
theorem step_accept {s t : State} {r : Request} {rest : List HostMove} (hi : s.phase = .idle)
    (hh : s.host = .request r :: rest) (he : exec (decodeRequest r) s = .next t) :
    step s = .next (t.setHost rest) := by
  unfold step hostedEdge
  have hl := left_presenting r [] rest s
  simp only [hi, if_true] at hl
  simp only [hh, drivenBy, hl]
  simp [clockEdge, Driven.requests, Ports.presenting, he]

/-- What the request port does at one edge, and at the edges after it. -/
theorem portEvents_succ {s t : State} {d : Driven} (k : Nat) (hd : drivenBy s.host = .ok d) (h : step s = .next t) :
    portEvents (k + 1) s = d.ports.event s :: portEvents k t := by
  simp only [portEvents, hd, h]

/-- The timer counts down for as long as it is not 0, and nothing else happens. -/
theorem run_countDown {s : State} {rs : List Request} (hb : s.phase ≠ .idle) (hh : s.host = rs.map HostMove.request)
    (k : Nat) (hk : k ≤ s.timer) : Sys2Proof.core.run k s = .next { s with timer := s.timer - k } := by
  induction k generalizing s with
  | zero => rfl
  | succ k ih =>
    have ht : s.timer ≠ 0 := by omega
    have he : s.edge id = { s with timer := s.timer - 1 } := by
      rcases edge_cases id s with ⟨h1, -⟩ | ⟨-, -, h2⟩ | ⟨-, h1, -⟩ | ⟨-, h1, -⟩ | ⟨-, h1, -⟩ | ⟨-, h1, -⟩
      · exact absurd h1 hb
      · exact h2
      all_goals exact absurd h1 ht
    have hs : step s = .next { s with timer := s.timer - 1 } := by
      rw [step_busy hb hh, he]
      rfl
    rw [run_succ k hs, ih (s := { s with timer := s.timer - 1 }) hb hh (by simp; omega)]
    simp [Nat.sub_sub, Nat.add_comm]

end Sys2Proof.Machine
end

