-- ==== Sys2Proof/Tests/Slice0.lean ====
section
/-! SUPPORT. Tests. Expected values are those of `spec/95_test_vectors.md` (W1 to W9, V1 to V7, P1 to P3) and of the
rules' own examples; the witnesses show that the hypotheses of the statements can be met. -/

namespace Sys2Proof.Tests

open Sys2Proof.Machine

/-! ## Helpers -/

/-- The next state, if the outcome is one. -/
def next? : Host.Outcome State Fault Refusal → Option State
  | .next t => some t
  | .fault _ => none
  | .refused _ => none

/-- The refusal, if the outcome is one. -/
def refusal? : Host.Outcome State Fault Refusal → Option Refusal
  | .next _ => none
  | .fault _ => none
  | .refused r => some r

/-- The bus word and phase after one step in which the host presents the request word from reset. -/
def presents (w : Nat) : Option (Bool × Byte × Phase × BitVec 2 × Bool) :=
  (next? (step (State.reset.withFetchWord 16 w))).map fun t => (t.rsQ, t.dQ, t.phase, t.errCode, t.errSticky)

/-- What a request that starts a transaction leaves. -/
def starts (rs : Bool) (b : Byte) : Option (Bool × Byte × Phase × BitVec 2 × Bool) :=
  some (rs, b, .setup, 0b00, false)

/-- A state with parameters 1, 2, 1 in the middle of a transaction that carries `{0, 0x38}` (V3). -/
def busy (ph : Phase) (timer : Nat) : State :=
  { State.reset with dQ := 0x38, phase := ph, timer := timer, eQ := decide (ph = .pulse) }

/-- The same inside INIT, at a step (V4, V6). -/
def inInit (k : Fin 4) (ph : Phase) (timer : Nat) : State :=
  { busy ph timer with dQ := (initWord k).byte, seqActive := true, seqIdx := k }

def resetPorts : Ports := { rst := true, reqValid := true, req := { op := 0x2, flags := 0, arg := 0 } }

/-! ## Well-formedness refuses the ill-formed (D16, D17, U10) -/

theorem test_byte_256_ill_formed : (Instr.writeChar (.byte 256)).wellFormed = false := by decide

theorem test_byte_negative_ill_formed : (Instr.writeChar (.byte (-1))).wellFormed = false := by decide

theorem test_char_ill_formed : (Instr.writeChar (.char (Char.ofNat 0x100))).wellFormed = false := by decide

theorem test_string_ill_formed : (Instr.writeString ['A', Char.ofNat 0x2603]).wellFormed = false := by decide

theorem test_string_well_formed : (Instr.writeString ['A', Char.ofNat 0xFF]).wellFormed = true := by decide

/-! ## Decoding: words written out from R70, R71 and R74 (V2) -/

theorem test_decode_send_cmd : decode (.req 0b0000_111_11111111) = .ok (.sendCmd 0b111 0xFF) := by decide

theorem test_decode_send_data : decode (.req 0b0001_000_01001000) = .ok (.sendData 0 0x48) := by decide

theorem test_decode_clear : decode (.req 0b0010_111_11111111) = .ok (.clear 0b111 0xFF) := by decide

theorem test_decode_home : decode (.req 0b0011_000_00000000) = .ok (.home 0 0) := by decide

theorem test_decode_entry_mode : decode (.req 0b0100_110_00000001) = .ok (.entryMode true true false 1) := by decide

theorem test_decode_display_ctrl : decode (.req 0b0101_100_00000000) = .ok (.displayCtrl true false false 0) := by
  decide

theorem test_decode_shift : decode (.req 0b0110_010_00000000) = .ok (.shift false true false 0) := by decide

theorem test_decode_function_set : decode (.req 0b0111_001_00000000) = .ok (.functionSet false false true 0) := by
  decide

theorem test_decode_set_cgram : decode (.req 0b1000_000_00111111) = .ok (.setCgram 0 0x3F) := by decide

theorem test_decode_set_ddram : decode (.req 0b1001_000_01100111) = .ok (.setDdram 0 0x67) := by decide

theorem test_decode_init : decode (.req 0b1010_000_00000000) = .ok (.init 0 0) := by decide

theorem test_decode_read_flag : decode (.req 0b1011_111_11111111) = .ok (.readFlag 0b111 0xFF) := by decide

theorem test_decode_read_data : decode (.req 0b1100_000_00000000) = .ok (.readData 0 0) := by decide

theorem test_decode_reserved_d : decode (.req 0b1101_000_00000000) = .ok (.reservedD 0 0) := by decide

theorem test_decode_reserved_e : decode (.req 0b1110_000_00000000) = .ok (.reservedE 0 0) := by decide

theorem test_decode_reserved_f : decode (.req 0b1111_111_11111111) = .ok (.reservedF 0b111 0xFF) := by decide

theorem test_decode_bus_clear : decode (.bus 0b0_00000001) = .ok .busClear := by decide

theorem test_decode_bus_home : decode (.bus 0b0_00000010) = .ok .busHome := by decide

theorem test_decode_bus_entry : decode (.bus 0b0_00000101) = .ok (.busEntryModeSet false true) := by decide

theorem test_decode_bus_display : decode (.bus 0b0_00001100) = .ok (.busDisplayControl true false false) := by decide

theorem test_decode_bus_shift : decode (.bus 0b0_00011000) = .ok (.busCursorDisplayShift true false) := by decide

theorem test_decode_bus_function : decode (.bus 0b0_00110100) = .ok (.busFunctionSet true false true) := by decide

theorem test_decode_bus_cgram : decode (.bus 0b0_01001000) = .ok (.busSetCgramAddr 8) := by decide

theorem test_decode_bus_ddram : decode (.bus 0b0_11000000) = .ok (.busSetDdramAddr 0x40) := by decide

theorem test_decode_bus_data : decode (.bus 0b1_00000011) = .ok (.busData 0x03) := by decide

/-- R81 -/
theorem test_bus_words_rejected :
    decode (.bus 0x000) = .error .noFamily ∧
    decode (.bus 0x003) = .error (.undocumentedBits .home) ∧
    decode (.bus 0x011) = .error (.undocumentedBits .cursorDisplayShift) ∧
    decode (.bus 0x03F) = .error (.undocumentedBits .functionSet) := by decide

theorem test_table_words :
    decodeTableWord 16 0x1000 = some (.clear 0 0) ∧ decodeTableWord 16 0x8000 = none ∧
    decodeTableWord 9 0x001 = some .busClear ∧ decodeTableWord 9 0x003 = none := by decide

/-- R84: the expansion of `WRITE_STRING "AB"` (W6). -/
theorem test_encode_write_string : encode (.writeString ['A', 'B']) = [.req 0x0841, .req 0x0842] := by decide

/-! ## One step from reset: the bus word of each request (V2, W4, W5) -/

theorem test_send_cmd_undocumented : presents 0x0003 = starts false 0x03 := by decide

theorem test_send_data : presents 0x0FFF = starts true 0xFF := by decide

theorem test_clear_ignores_fields : presents 0x17FF = starts false 0x01 := by decide

theorem test_home_ignores_fields : presents 0x1FFF = starts false 0x02 := by decide

theorem test_entry_mode_inc : presents 0x2200 = starts false 0x06 := by decide

theorem test_entry_mode_shift : presents 0x2100 = starts false 0x05 := by decide

theorem test_display_on : presents 0x2C00 = starts false 0x0C := by decide

theorem test_display_on_cursor : presents 0x2E00 = starts false 0x0E := by decide

theorem test_shift_right : presents 0x3100 = starts false 0x14 := by decide

theorem test_shift_display : presents 0x3200 = starts false 0x18 := by decide

theorem test_function_set_8bit : presents 0x3C00 = starts false 0x30 := by decide

theorem test_function_set_2line : presents 0x3A00 = starts false 0x28 := by decide

theorem test_cgram_alias : presents 0x4040 = starts false 0x40 := by decide

theorem test_cgram_mask : presents 0x47FF = starts false 0x7F := by decide

theorem test_ddram_alias : presents 0x4880 = starts false 0x80 := by decide

theorem test_ddram_line2 : presents 0x4867 = starts false 0xE7 := by decide

theorem test_init_first_word : presents 0x5000 = starts false 0x01 := by decide

theorem test_read_flag : presents 0x5800 = some (false, 0x00, .idle, 0b01, true) := by decide

theorem test_read_data : presents 0x6000 = some (false, 0x00, .idle, 0b01, true) := by decide

theorem test_reserved_d : presents 0x6800 = some (false, 0x00, .idle, 0b10, true) := by decide

theorem test_reserved_e : presents 0x7000 = some (false, 0x00, .idle, 0b10, true) := by decide

theorem test_reserved_f : presents 0x7800 = some (false, 0x00, .idle, 0b10, true) := by decide

/-- V5: OK follows an error, and the sticky bit stays. -/
theorem test_ok_after_error :
    (next? (step (({ State.reset with errCode := 0b01, errSticky := true }).withFetchWord 16 0x1000))).map
      (fun t => (t.errCode, t.errSticky, t.phase)) = some (0b00, true, .setup) := by decide

/-! ## Bus words and pseudo-operations -/

theorem test_bus_words_emit :
    (next? (exec (.busFunctionSet true true false) State.reset)).map (·.dQ) = some 0x38 ∧
    (next? (exec (.busDisplayControl true true true) State.reset)).map (·.dQ) = some 0x0F ∧
    (next? (exec (.busSetDdramAddr 0x40) State.reset)).map (·.dQ) = some 0xC0 ∧
    (next? (exec (.busSetCgramAddr 0x3F) State.reset)).map (·.dQ) = some 0x7F := by decide

theorem test_bus_data_emits : (next? (exec (.busData 0x48) State.reset)).map (fun t => (t.rsQ, t.dQ)) =
    some (true, 0x48) := by decide

/-- A bus word does not cut a pulse short (R103). -/
theorem test_bus_word_waits : next? (exec .busClear (busy .pulse 1)) = some (busy .pulse 0) := by decide

theorem test_write_char : (next? (exec (.writeChar (.char 'H')) State.reset)).map (·.host) =
    some [.request (Request.ofWord 0x0848)] := by decide

theorem test_write_char_refused :
    refusal? (exec (.writeChar (.byte 256)) State.reset) = some (.byteOutOfRange 256) := by decide

theorem test_write_string : (next? (exec (.writeString ['A', 'B']) State.reset)).map (·.host) =
    some [.request (Request.ofWord 0x0841), .request (Request.ofWord 0x0842)] := by decide

theorem test_write_string_refused :
    refusal? (exec (.writeString ['A', Char.ofNat 0x100]) State.reset) =
      some (.codePointTooLarge (Char.ofNat 0x100)) := by decide

/-- The step presents the first character and keeps the second for later; an empty string is passed over (R162). -/
theorem test_step_write_string :
    (next? (step { State.reset with host := [.writeString [], .writeString ['A', 'B']] })).map
      (fun t => (t.rsQ, t.dQ, t.host)) = some (true, 0x41, [.request (Request.ofWord 0x0842)]) := by decide

/-! ## One edge of the sequencer (V3, V4, V6, V7) -/

theorem test_setup_end : next? (step (busy .setup 0)) = some (busy .pulse 1) := by decide

theorem test_pulse_counts : next? (step (busy .pulse 1)) = some (busy .pulse 0) := by decide

theorem test_pulse_end :
    next? (step (busy .pulse 0)) = some { busy .gap 0 with log := [.latched false 0x38] } := by decide

theorem test_gap_end : next? (step (busy .gap 0)) = some (busy .idle 0) := by decide

theorem test_idle_stays : next? (step (busy .idle 0)) = some (busy .idle 0) := by decide

/-- V4, V6: step 1's word follows step 0's GAP without passing through IDLE. -/
theorem test_init_next_word : next? (step (inInit 0 .gap 0)) = some (inInit 1 .setup 0) := by decide

theorem test_init_last_step : (next? (step (inInit 3 .gap 0))).map (fun t => (t.phase, t.seqActive, t.seqIdx)) =
    some (.idle, false, 0) := by decide

/-- V7: a request presented while the block is busy is not taken, and the host keeps it. -/
theorem test_busy_request_kept :
    (next? (step ((busy .pulse 1).withFetchWord 16 0x0842))).map (fun t => (t.phase, t.timer, t.dQ, t.host)) =
      some (.pulse, 0, 0x38, [.request (Request.ofWord 0x0842)]) := by decide

/-- V6: reset in PULSE, with `T_HOLD = 3` and the timer at 1, cuts the pulse after 2 cycles. -/
theorem test_reset_in_pulse :
    next? (clockEdge resetPorts
      { busy .pulse 1 with rsQ := true, dQ := 0x41, params := { tSetup := 1, tHold := 3, tGap := 1 } }) =
      some { State.resetWith { tSetup := 1, tHold := 3, tGap := 1 } with log := [.truncated true 0x41 2] } := by decide

/-- V6: reset in INIT's second PULSE drops the steps not yet emitted. -/
theorem test_reset_in_init :
    next? (clockEdge resetPorts (inInit 1 .pulse 1)) =
      some { State.reset with log := [.truncated false 0x38 1] } := by decide

/-- V6: a reset with a request accepts nothing. -/
theorem test_reset_beats_request :
    next? (step { State.reset with host := [.drive resetPorts] }) = some State.reset := by decide

/-- V1 -/
theorem test_set_bus : (List.finRange 8).map (State.reset.setBus 0xA5).lcdD =
    [true, false, true, false, false, true, false, true] := by decide

theorem test_timer_width :
    Params.timerWidth { tSetup := 1, tHold := 1, tGap := 1 } = 1 ∧
    Params.timerWidth { tSetup := 1, tHold := 9, tGap := 1 } = 4 ∧
    Params.timerWidth { tSetup := 1, tHold := 8, tGap := 1 } = 3 := by decide

/-! ## Reading the log, and the boot order -/

theorem test_truncated_is_a_draw : (Event.truncated true 0x41 2).receipts =
    [some ⟨true, 0x41⟩, some ⟨false, 0x00⟩, none] := by decide

theorem test_four_bit_hazard :
    eightBitThroughout [.latched false 0x38, .latched true 0x28] = true ∧
    eightBitThroughout [.latched false 0x28, .latched false 0x38] = false := by decide

theorem test_documented :
    documentedWord ⟨false, 0x03⟩ = false ∧ documentedWord ⟨true, 0x03⟩ = true ∧
    ddramDocumented 0x27 = true ∧ ddramDocumented 0x28 = false ∧ ddramDocumented 0x67 = true := by decide

theorem test_boot_order :
    bootOrderFrom (fun _ => false) .powerUp
      [.reset, .accepted (Request.ofWord 0x5000), .accepted (Request.ofWord 0x0848)] = true ∧
    bootOrderFrom (fun _ => false) .powerUp [.accepted (Request.ofWord 0x5000)] = false ∧
    bootOrderFrom (fun _ => false) .afterReset
      [.accepted (Request.ofWord 0x1000), .accepted (Request.ofWord 0x0848)] = false ∧
    bootOrderFrom (fun rs => decide (2 ≤ rs.length)) .afterReset
      [.accepted (Request.ofWord 0x3800), .accepted (Request.ofWord 0x2C00), .accepted (Request.ofWord 0x0848)] =
      true := by decide

/-- R112, R162: a request driven while the block is busy has not been sent, and the empty string sends nothing. -/
theorem test_port_events :
    portEvents 3 { State.reset with host :=
      [.drive (Ports.presenting (Request.ofWord 0x0038)), .drive (Ports.presenting (Request.ofWord 0x5000))] } =
      [.accepted (Request.ofWord 0x0038), .nothing, .nothing] ∧
    portEvents 2 { State.reset with host := [.writeString [], .drive resetPorts] } = [.reset, .nothing] := by decide

/-! ## The assembler (R83, R84) -/

theorem test_asm_options :
    assembleLine "ENTRY_MODE inc, noshift".toList = .ok (.request (Request.ofWord 0x2200)) ∧
    assembleLine "SHIFT display, right".toList = .ok (.request (Request.ofWord 0x3300)) ∧
    assembleLine "FUNCTION_SET 8bit, 2line, 5x8".toList = .ok (.request (Request.ofWord 0x3E00)) ∧
    assembleLine "DISPLAY_CTRL on, cursor, blink".toList = .ok (.request (Request.ofWord 0x2F00)) := by decide

theorem test_asm_numerals :
    assembleLine "SET_DDRAM 0x40".toList = .ok (.request (Request.ofWord 0x4840)) ∧
    assembleLine "SET_CGRAM 64".toList = .ok (.request (Request.ofWord 0x4040)) ∧
    assembleLine "SEND_CMD 0b0011_1000".toList = .ok (.request (Request.ofWord 0x0038)) := by decide

/-- A quoted operand with no space before it (log entry 6). -/
theorem test_asm_adjacent_literal :
    assembleLine "SEND_DATA'A'".toList = .ok (.request (Request.ofWord 0x0841)) := by decide

theorem test_asm_pseudo :
    assembleLine "WRITE_CHAR 'H'".toList = .ok (.writeChar (.char 'H')) ∧
    assembleLine "WRITE_STRING \"A, B\"".toList = .ok (.writeString ['A', ',', ' ', 'B']) ∧
    assembleLine "WRITE_STRING \"\"".toList = .ok (.writeString []) := by decide

theorem test_asm_refusals :
    assembleLine "SET_DDRAM 256".toList = .error (.outOfRange 256) ∧
    assembleLine "CLEAR 1".toList = .error .badOperands ∧
    assembleLine "ENTRY_MODE noshift, inc".toList = .error .badOperands ∧
    assembleLine "RESERVED_D".toList = .error .unknownMnemonic := by decide

/-! ## Witnesses: states and operands that meet the hypotheses of the statements -/

theorem witness_RequestsAndBusWordsRoundTrip :
    (Instr.sendCmd 7 0xFF).format ≠ .pseudo ∧ Instr.busClear.format ≠ .pseudo := by decide

theorem witness_DecodedWordsEncodeBack :
    decode (.req 0x7FFF) = .ok (.reservedF 7 0xFF) ∧ decode (.bus 0x1FF) = .ok (.busData 0xFF) := by decide

theorem witness_PseudoOperationsEncodeToSendData :
    255 ≤ 255 ∧ (Char.ofNat 0xFF).toNat ≤ 0xFF ∧ ∀ c ∈ ['A', Char.ofNat 0xFF], c.toNat ≤ 0xFF := by
  refine ⟨by decide, by decide, by simp⟩

theorem witness_SelectorAndOptionsDisjoint :
    (0xFF &&& 0x3F : Byte) = cgramOperand 0xFF ∧ (0x03 : Byte) = entryModeOptions true true ∧
    (0x07 : Byte) = displayControlOptions true true true ∧ (0x0C : Byte) = shiftOptions true true ∧
    (0x1C : Byte) = functionSetOptions true true true ∧ (0x7F : Byte) = ddramOperand 0xFF := by decide

/-- For the statements about an accepted request: IDLE, as after reset and after a transaction. -/
theorem witness_idle : State.reset.phase = .idle ∧ (busy .idle 0).phase = .idle := by decide

theorem witness_AcceptedRequestsWriteTheirCode :
    (Instr.clear 0 0).format = .req ∧ busWords (.clear 0 0) ≠ [] ∧
    (Instr.readFlag 0 0).format = .req ∧ busWords (.readFlag 0 0) = [] := by decide

theorem witness_BusyRequestsAreNotTaken :
    (Instr.init 0 0).format = .req ∧ (busy .setup 0).phase ≠ .idle ∧ (busy .gap 0).phase ≠ .idle := by decide

theorem witness_BusWordsStartTransaction :
    (Instr.busData 0x48).format = .bus ∧ busWords (.busData 0x48) = [⟨true, 0x48⟩] ∧
    State.reset.phase = .idle ∧ ((busy .gap 0).phase = .gap ∧ (busy .gap 0).timer = 0) := by decide

theorem witness_BusInstructionsCarryTheirWord : encode (.busSetDdramAddr 0x7F) = [.bus 0x0FF] := by decide

theorem witness_UnfitOperandsAreRefused :
    ((-1 : Int) < 0 ∨ 255 < (-1 : Int)) ∧ ((256 : Int) < 0 ∨ (255 : Int) < 256) ∧
    0xFF < (Char.ofNat 0x100).toNat ∧ ∀ b ∈ ['A'], b.toNat ≤ 0xFF := by
  refine ⟨by decide, by decide, by decide, by simp⟩

theorem witness_AssembledLinesFit :
    assembleLine "READ_DATA".toList = .ok (.request (Request.ofWord 0x6000)) ∧
    assembleLine "WRITE_CHAR 255".toList = .ok (.writeChar (.byte 255)) ∧
    assembleLine "WRITE_STRING \"A\"".toList = .ok (.writeString ['A']) := by decide

theorem witness_StepIsOneRisingEdge :
    ({ State.reset with host := [.drive resetPorts] } : State).host = .drive resetPorts :: [] := by decide

theorem witness_StepRunsPresentedInstruction :
    decode (.req 0x3E00) = .ok (.functionSet true true false 0) ∧
    (State.reset.withFetchWord 16 0x3E00).host = .request (Request.ofWord 0x3E00) :: [] := by decide

theorem witness_StepExpandsPseudoOperations :
    next? (exec (.writeChar (.byte 255)) State.reset) =
      some { State.reset with host := [.request (Request.ofWord 0x08FF)] } ∧
    next? (exec (.writeString []) State.reset) = some State.reset ∧
    refusal? (exec (.writeChar (.byte 256)) State.reset) = some (.byteOutOfRange 256) ∧
    refusal? (exec (.writeString [Char.ofNat 0x100]) State.reset) =
      some (.codePointTooLarge (Char.ofNat 0x100)) := by decide

theorem witness_InitStepRunsNextBusWord :
    Ports.quiet.rst = false ∧ (inInit 0 .gap 0).phase = .gap ∧ (inInit 0 .gap 0).timer = 0 ∧
    (inInit 0 .gap 0).seqActive = true ∧ (inInit 0 .gap 0).seqIdx = 0 ∧ (inInit 1 .gap 0).seqIdx = 1 ∧
    (inInit 2 .gap 0).seqIdx = 2 := by decide

theorem witness_PhasesAdvance :
    Ports.quiet.rst = false ∧ Ports.quiet.reqValid = false ∧ (busy .idle 0).phase = .idle ∧
    (busy .pulse 1).timer ≠ 0 ∧ (busy .setup 0).timer = 0 ∧ (busy .pulse 0).timer = 0 ∧
    (busy .gap 0).seqActive = false ∧ (inInit 3 .gap 0).seqIdx = 3 := by decide

theorem witness_reset_edge : resetPorts.rst = true := by decide

theorem witness_HeldResetChangesNothing : next? (clockEdge resetPorts State.reset) = some State.reset := by decide

theorem witness_inv_reset : Inv State.reset := by constructor <;> decide

theorem witness_inv_pulse : Inv (busy .pulse 1) ∧ (busy .pulse 1).params.Legal := by
  refine ⟨?_, by decide⟩
  constructor <;> decide

theorem witness_inv_init : Inv (inInit 2 .gap 0) := by constructor <;> decide

theorem witness_StepKeepsInvariants : next? (step (inInit 2 .gap 0)) = some (inInit 3 .setup 0) := by decide

theorem witness_StepKeepsTimerWidth : (busy .pulse 1).timer < 2 ^ (busy .pulse 1).params.timerWidth := by decide

theorem witness_ReachableStatesMeetInvariants :
    next? (Sys2Proof.core.run 1 { State.resetWith Params.vectors with host := [.request (Request.ofWord 0x5000)] }) =
      some { inInit 0 .setup 0 with dQ := 0x01 } := by decide

theorem witness_BusIsStableAroundEnable :
    next? (clockEdge Ports.quiet (busy .setup 0)) = some (busy .pulse 1) ∧
    next? (clockEdge Ports.quiet (inInit 0 .gap 0)) = some (inInit 1 .setup 0) := by decide

theorem witness_LogGrowsByFallingEdges :
    (busy .pulse 0).eQ = true ∧ (next? (clockEdge Ports.quiet (busy .pulse 0))).map (·.eQ) = some false ∧
    (next? (clockEdge resetPorts (busy .pulse 0))).map (·.eQ) = some false := by decide

theorem witness_StatusChangesOnlyAtAcceptance :
    ¬((busy .setup 0).phase = .idle ∧ Ports.quiet.reqValid = true) ∧ Ports.quiet.rst = false := by decide

theorem witness_StickyErrorClearedOnlyByReset :
    (next? (clockEdge (Ports.presenting (Request.ofWord 0x5800)) State.reset)).map
      (fun t => (t.errCode, t.errSticky)) = some (0b01, true) := by decide

theorem witness_PortsIgnoredUnlessAccepted :
    Ports.quiet.rst = (Ports.presenting (Request.ofWord 0x1000)).rst ∧
    ¬((Ports.presenting (Request.ofWord 0x1000)).rst = false ∧
      (Ports.presenting (Request.ofWord 0x1000)).reqValid = true ∧ (busy .gap 0).phase = .idle) ∧
    ¬(Ports.quiet.rst = false ∧ Ports.quiet.reqValid = true ∧ (busy .gap 0).phase = .idle) := by decide

/-- For StepCompletes: moves whose pseudo-operations are well formed. -/
theorem witness_StepCompletes :
    (Instr.writeChar (.char 'H')).WellFormed ∧ (Instr.writeString ['H', 'i']).WellFormed := by decide

/-- For the timelines and the run of requests. -/
theorem witness_timeline :
    Inv (State.reset.setHost [.request (Request.ofWord 0x0038)]) ∧ State.reset.params.Legal ∧
    busWords (decodeRequest (Request.ofWord 0x0038)) = [⟨false, 0x38⟩] ∧ State.reset.params.length = 4 ∧
    (Request.ofWord 0x5000).op = 0xA := by
  refine ⟨?_, by decide, by decide, by decide, by decide⟩
  constructor <;> decide

theorem witness_WriteStringLatchesItsCharacters :
    Inv (State.reset.setHost [.writeString ['A', 'B']]) ∧ ∀ c ∈ ['A', 'B'], c.toNat ≤ 0xFF := by
  refine ⟨?_, by simp⟩
  constructor <;> decide

theorem witness_TimerWidthIsSmallest : 1 ≤ 2 ∧ max 1 (max 3 1) - 1 < 2 ^ 2 := by decide

/-- A 1 MHz clock and a controller with a 1 us minimum pulse. -/
def oneMegahertz : Environment :=
  { fClkHz := 1000000, fClkHz_pos := by decide, tPwMin := 1 / 1000000, tAsMin := 0, tAhMin := 0, tElMin := 0
    tExec := fun _ => 0, tExecMax := 0, tPowerup := 0 }

theorem witness_ReferenceHoldMeetsFiveMilliseconds :
    0 < 1000000 ∧ referenceHold 1000000 = 5000 ∧ referenceHold 1 = 1 ∧ oneMegahertz.fClkHz = 1000000 ∧
    oneMegahertz.tPwMin ≤ 5 / 1000 := by
  refine ⟨by decide, by decide, by decide, rfl, ?_⟩
  norm_num [oneMegahertz]

theorem witness_FourBitModeIsNeverForgotten :
    0x20 ≤ (0x2F : Byte).toNat ∧ (0x2F : Byte).toNat ≤ 0x2F ∧
    eightBitThroughout [.latched false 0x20, .latched false 0x38] = false ∧
    eightBitThroughout [.truncated false 0x2F 1] = false ∧
    eightBitThroughout [.latched false 0x1F, .latched false 0x30, .latched true 0x20, .truncated true 0x2F 1] = true := by
  decide

/-- For BootOrderAsksForConfiguration: an INIT, an own sequence, a data request, each from IDLE. -/
theorem witness_BootOrderAsksForConfiguration :
    (Request.ofWord 0x5000).op = 0xA ∧ (Request.ofWord 0x1000).op.toNat = 0x2 ∧
    (Request.ofWord 0x3C00).op.toNat = 0x7 ∧ (Request.ofWord 0x0841).op = 0x1 ∧
    (Request.ofWord 0x4840).op = 0x9 ∧ State.reset.phase = .idle ∧
    (fun rs : List Request => decide (rs.length = 2)) [Request.ofWord 0x3C00, Request.ofWord 0x1000] = true := by
  decide

theorem witness_AssembledProgramsAreNeverRefused :
    assemble ["INIT".toList, "WRITE_STRING \"Hi\"".toList] =
      .ok [.request (Request.ofWord 0x5000), .writeString ['H', 'i']] := by decide

end Sys2Proof.Tests
end

section
/-! PROOFS. The scope of the block (`00_scope.md`): the width of the timer (R11), the reference hold time (R8), and the
rising edge with the levels the host drives (R19). -/

namespace Sys2Proof

/-! ## The width of the timer -/

/-- R11 as one equivalence: the widths from `W_T` on are those of at least 1 that hold the longest phase length minus
one. -/
theorem Params.timerWidth_le_iff (p : Params) (w : Nat) :
    p.timerWidth ≤ w ↔ 1 ≤ w ∧ max p.tSetup (max p.tHold p.tGap) - 1 < 2 ^ w := by
  unfold timerWidth
  generalize max p.tSetup (max p.tHold p.tGap) - 1 = m
  rcases Nat.eq_zero_or_pos m with rfl | hm
  · simp
  · have hlog : m.log2 < w ↔ m < 2 ^ w := Nat.log2_lt hm.ne'
    have hw : m < 2 ^ w → 1 ≤ w := fun h => Nat.one_le_iff_ne_zero.mpr (by rintro rfl; omega)
    rw [Nat.add_one_le_iff, hlog]
    exact ⟨fun h => ⟨hw h, h⟩, And.right⟩

/-- Settles O42: the width itself meets the equivalence, and every width that meets it is at least as large. -/
theorem timerWidthIsSmallest : Obligations.TimerWidthIsSmallest := by
  intro p
  obtain ⟨hpos, hfits⟩ := (p.timerWidth_le_iff p.timerWidth).mp le_rfl
  exact ⟨hpos, hfits, fun w h1 hw => (p.timerWidth_le_iff w).mpr ⟨h1, hw⟩⟩

/-! ## The reference hold time -/

/-- The whole-number formula of the reference value is the ceiling of a division: 5 ms is a 200th of a second. -/
theorem referenceHold_le_iff (f n : Nat) : referenceHold f ≤ n ↔ (5 / 1000 : Rat) * f ≤ n := by
  have hnat : referenceHold f ≤ n ↔ f ≤ 200 * n := ceilDiv_le_iff_le_mul (b := f) (by decide : 0 < 200)
  have hrat : f ≤ 200 * n ↔ (f : Rat) ≤ 200 * n := by exact_mod_cast Iff.rfl
  rw [hnat, hrat]
  constructor <;> intro h <;> linarith

theorem referenceHold_eq_ceil (f : Nat) : (referenceHold f : Int) = ⌈(5 / 1000 : Rat) * f⌉ := by
  have hceil : referenceHold f = ⌈(5 / 1000 : Rat) * f⌉₊ :=
    eq_of_forall_ge_iff fun n => (referenceHold_le_iff f n).trans Nat.ceil_le.symm
  rw [hceil, Int.natCast_ceil_eq_ceil (by positivity)]

/-- At least the reference number of cycles lasts at least 5 ms. -/
theorem Machine.five_milliseconds_le_seconds (e : Environment) {n : Nat} (h : referenceHold e.fClkHz ≤ n) :
    5 / 1000 ≤ Machine.seconds e n := by
  have hf : (0 : Rat) < e.fClkHz := Nat.cast_pos.mpr e.fClkHz_pos
  exact (le_div_iff₀ hf).mpr ((referenceHold_le_iff _ n).mp h)

/-- Settles O54: the reference value is the ceiling, and a pulse of that many cycles lasts 5 ms. -/
theorem referenceHoldMeetsFiveMilliseconds : Obligations.ReferenceHoldMeetsFiveMilliseconds := by
  intro f _
  refine ⟨referenceHold_eq_ceil f, ?_⟩
  rintro p e hhold rfl hmin
  exact hmin.trans (Machine.five_milliseconds_le_seconds e hhold.ge)

/-! ## The rising edge -/

namespace Machine

/-- Every rising edge has a next state, whatever the ports carry (R210: the block takes no traps). -/
theorem clockEdge_next (p : Ports) (s : State) : ∃ t, clockEdge p s = .next t := by
  obtain ⟨o, -, he⟩ := exec_decodeRequest p.req
  unfold clockEdge
  split
  · exact ⟨_, rfl⟩
  · split
    · exact ⟨_, he s⟩
    · exact ⟨_, rfl⟩

/-- Where the host drives port levels, the step is the edge with these levels, and the move is over. -/
theorem step_drive {s : State} {p : Ports} {rest : List HostMove} (h : s.host = .drive p :: rest) :
    step s = withHost rest (clockEdge p s) := by
  simp [step, hostedEdge, h, drivenBy, Driven.left]

end Machine

/-- Settles O27: the edge has a next state, and the step is that edge with the move taken off. -/
theorem stepIsOneRisingEdge : Obligations.StepIsOneRisingEdge := by
  intro s p rest h
  obtain ⟨t, ht⟩ := Machine.clockEdge_next p s
  exact ⟨t, ht, by rw [Machine.step_drive h, ht]; rfl⟩

end Sys2Proof
end

section
/-! PROOFS. The state (`10_state.md`): what one rising edge can do, the values after reset (R20), the invariants (R38)
and the timer's width (R25), the status registers (R27, R28), the log (R36) and the steps of INIT (R37). -/

namespace Sys2Proof.Machine

variable {s t : State} {p : Ports}

/-! ## What one rising edge can do -/

/-- Reset wins over whatever is presented (R209). -/
theorem clockEdge_reset (hr : p.rst = true) : clockEdge p s = .next s.resetEdge := if_pos hr

/-- Without reset and without an acceptance, only the phase goes on (R106, R112). -/
theorem clockEdge_not_accepted (hr : p.rst = false) (hn : ¬(s.phase = .idle ∧ p.reqValid = true)) :
    clockEdge p s = .next (s.edge id) := by
  unfold clockEdge
  cases hv : p.reqValid with
  | false => simp [hr]
  | true =>
    obtain ⟨o, -, he⟩ := exec_decodeRequest p.req
    have hb : s.phase ≠ .idle := fun hi => hn ⟨hi, hv⟩
    simp [hr, he, present_busy o hb]

/-- A rising edge resets the block, accepts a request, or carries the phase on. -/
theorem clockEdge_cases (h : clockEdge p s = .next t) :
    (p.rst = true ∧ t = s.resetEdge) ∨
    (p.rst = false ∧ s.phase = .idle ∧ p.reqValid = true ∧ ∃ o : Decoded, o.Legal ∧ t = s.accept o) ∨
    (p.rst = false ∧ ¬(s.phase = .idle ∧ p.reqValid = true) ∧ t = s.edge id) := by
  cases hr : p.rst with
  | true =>
    rw [clockEdge_reset hr, Host.Outcome.next.injEq] at h
    exact .inl ⟨rfl, h.symm⟩
  | false =>
    by_cases ha : s.phase = .idle ∧ p.reqValid = true
    · obtain ⟨hi, hv⟩ := ha
      obtain ⟨o, ho, he⟩ := exec_decodeRequest p.req
      simp only [clockEdge, hr, hv, he, present_idle o hi, Bool.false_eq_true, if_false, if_true,
        Host.Outcome.next.injEq] at h
      exact .inr (.inl ⟨rfl, hi, hv, o, ho, h.symm⟩)
    · rw [clockEdge_not_accepted hr ha, Host.Outcome.next.injEq] at h
      exact .inr (.inr ⟨rfl, ha, h.symm⟩)

/-- A step is a rising edge, after which only the host's moves are replaced. -/
theorem step_clockEdge (h : step s = .next t) :
    ∃ (p : Ports) (u : State) (moves : List HostMove), clockEdge p s = .next u ∧ t = u.setHost moves := by
  unfold step hostedEdge at h
  split at h
  next d _ =>
    obtain ⟨u, hu⟩ := clockEdge_next d.ports s
    rw [hu, withHost_next, Host.Outcome.next.injEq] at h
    exact ⟨d.ports, u, d.left s, hu, h.symm⟩
  next => cases h

/-- What every step keeps, every run keeps. -/
theorem run_induction {P : State → Prop} (hstep : ∀ s t, P s → step s = .next t → P t) (k : Nat) (hs : P s)
    (h : Sys2Proof.core.run k s = .next t) : P t := by
  induction k generalizing s with
  | zero =>
    cases h
    exact hs
  | succ k ih =>
    rcases step_next_or_refused s with ⟨u, hu⟩ | ⟨e, -, he⟩
    · rw [run_succ k hu] at h
      exact ih (hstep s u hs hu) h
    · have he' : Sys2Proof.core.step s = .refused e := he
      simp [Host.Core.run, he'] at h

/-! ## What acceptance and the phases leave unchanged -/

@[simp] theorem accept_eQ (o : Decoded) (s : State) : (s.accept o).eQ = s.eQ := by cases o <;> rfl

@[simp] theorem accept_log (o : Decoded) (s : State) : (s.accept o).log = s.log := by cases o <;> rfl

@[simp] theorem accept_params (o : Decoded) (s : State) : (s.accept o).params = s.params := by cases o <;> rfl

/-- The edges of a phase write neither the status registers nor the parameters. -/
theorem edge_id_frame (s : State) :
    (s.edge id).errCode = s.errCode ∧ (s.edge id).errSticky = s.errSticky ∧ (s.edge id).params = s.params := by
  rcases edge_cases id s with ⟨-, h⟩ | ⟨-, -, h⟩ | ⟨-, -, h⟩ | ⟨-, -, h⟩ | ⟨-, -, -, -, h⟩ | ⟨-, -, -, h⟩ <;> simp [h]

/-! ## The invariants -/

/-- (a) read for E low. -/
theorem Inv.eQ_eq_false (h : Inv s) (hp : s.phase ≠ .pulse) : s.eQ = false :=
  Bool.eq_false_iff.mpr (mt h.enable_iff_pulse.mp hp)

theorem inv_resetEdge (s : State) : Inv s.resetEdge where
  enable_iff_pulse := by simp
  setup_timer := nofun
  pulse_timer := nofun
  gap_timer := nofun
  idx_of_inactive _ := rfl
  inactive_of_idle _ := rfl
  word_of_active := nofun
  code_legal := by simp [errOk]
  sticky_of_code h := absurd rfl h

/-- A reset edge right after reset changes nothing. -/
theorem resetEdge_resetWith (p : Params) : (State.resetWith p).resetEdge = State.resetWith p := rfl

theorem Inv.setHost (h : Inv s) (moves : List HostMove) : Inv (s.setHost moves) := { h with }

theorem Inv.writeOk (h : Inv s) : Inv s.writeOk :=
  { h with
    code_legal := by simp [errOk]
    sticky_of_code := fun hc => absurd rfl hc }

theorem Inv.raise (h : Inv s) {code : BitVec 2} (hc : code ≠ 0b11) : Inv (s.raise code) :=
  { h with
    code_legal := hc
    sticky_of_code := fun _ => rfl }

/-- Starting a transaction while E is low: what (c) and (e) ask of the step of INIT that goes with its word. -/
theorem Inv.emit (h : Inv s) (hp : s.phase ≠ .pulse) (w : BusWord) (active : Bool) (k : Fin 4)
    (hk : active = false → k = 0) (hw : active = true → w = initWord k) :
    Inv { s.emit w with seqActive := active, seqIdx := k } :=
  { h with
    enable_iff_pulse := by simp [h.eQ_eq_false hp]
    setup_timer := fun _ => le_rfl
    pulse_timer := nofun
    gap_timer := nofun
    idx_of_inactive := hk
    inactive_of_idle := nofun
    word_of_active := hw }

theorem Inv.accept (h : Inv s) (hi : s.phase = .idle) {o : Decoded} (ho : o.Legal) : Inv (s.accept o) := by
  have hp : s.phase ≠ .pulse := by simp [hi]
  cases o with
  | word w =>
    have ha : s.seqActive ≠ true := by simp [h.inactive_of_idle hi]
    exact h.writeOk.emit hp w s.seqActive s.seqIdx h.idx_of_inactive fun ht => absurd ht ha
  | initSeq => exact h.writeOk.emit hp (initWord 0) true 0 nofun fun _ => rfl
  | error c =>
    refine h.raise ?_
    rcases ho with rfl | rfl <;> decide

theorem Inv.countDown (h : Inv s) : Inv s.countDown :=
  { h with
    setup_timer := fun hp => (Nat.sub_le _ _).trans (h.setup_timer hp)
    pulse_timer := fun hp => (Nat.sub_le _ _).trans (h.pulse_timer hp)
    gap_timer := fun hp => (Nat.sub_le _ _).trans (h.gap_timer hp) }

/-- The edges of a phase keep the invariants: E is high in PULSE only, and a new phase loads its own timer. -/
theorem Inv.edge (h : Inv s) : Inv (s.edge id) := by
  rcases edge_cases id s with ⟨-, he⟩ | ⟨-, -, he⟩ | ⟨-, -, he⟩ | ⟨-, -, he⟩ | ⟨hp, -, ha, -, he⟩ | ⟨hp, -, -, he⟩
  · exact he ▸ h
  · exact he ▸ h.countDown
  · rw [he]
    exact { h with
      enable_iff_pulse := by simp
      setup_timer := nofun
      pulse_timer := fun _ => le_rfl
      gap_timer := nofun
      inactive_of_idle := nofun }
  · rw [he]
    exact { h with
      enable_iff_pulse := by simp
      setup_timer := nofun
      pulse_timer := nofun
      gap_timer := fun _ => le_rfl
      inactive_of_idle := nofun }
  · rw [he]
    exact h.emit (by simp [hp]) (initWord (s.seqIdx + 1)) s.seqActive (s.seqIdx + 1) (by simp [ha]) fun _ => rfl
  · have hq : s.phase ≠ .pulse := by simp [hp]
    rw [he]
    exact { h with
      enable_iff_pulse := by simp [h.eQ_eq_false hq]
      setup_timer := nofun
      pulse_timer := nofun
      gap_timer := nofun
      idx_of_inactive := fun _ => rfl
      inactive_of_idle := fun _ => rfl
      word_of_active := nofun }

theorem Inv.clockEdge (h : Inv s) (hc : clockEdge p s = .next t) : Inv t := by
  rcases clockEdge_cases hc with ⟨-, rfl⟩ | ⟨-, hi, -, o, ho, rfl⟩ | ⟨-, -, rfl⟩
  · exact inv_resetEdge s
  · exact h.accept hi ho
  · exact h.edge

theorem Inv.step (h : Inv s) (hs : step s = .next t) : Inv t := by
  obtain ⟨p, u, moves, hu, rfl⟩ := step_clockEdge hs
  exact (h.clockEdge hu).setHost moves

/-! ## The width of the timer -/

/-- `W_T` bits hold every length the timer is loaded with, minus one (R11). -/
theorem timerFits_of_load {n : Nat} (hn : n = s.params.tSetup ∨ n = s.params.tHold ∨ n = s.params.tGap)
    (ht : s.timer = n - 1) : TimerFits s := by
  obtain ⟨-, hmax⟩ := (s.params.timerWidth_le_iff s.params.timerWidth).mp le_rfl
  unfold TimerFits
  omega

theorem timerFits_resetEdge (s : State) : TimerFits s.resetEdge := Nat.two_pow_pos _

theorem TimerFits.accept (h : TimerFits s) (o : Decoded) : TimerFits (s.accept o) := by
  cases o with
  | word w => exact timerFits_of_load (.inl rfl) rfl
  | initSeq => exact timerFits_of_load (.inl rfl) rfl
  | error c => exact h

theorem TimerFits.edge (h : TimerFits s) : TimerFits (s.edge id) := by
  rcases edge_cases id s with ⟨-, he⟩ | ⟨-, -, he⟩ | ⟨-, -, he⟩ | ⟨-, -, he⟩ | ⟨-, -, -, -, he⟩ | ⟨-, -, -, he⟩ <;>
    rw [he]
  · exact h
  · exact (Nat.sub_le _ _).trans_lt h
  · exact timerFits_of_load (.inr (.inl rfl)) rfl
  · exact timerFits_of_load (.inr (.inr rfl)) rfl
  · exact timerFits_of_load (.inl rfl) rfl
  · exact h

theorem TimerFits.step (h : TimerFits s) (hs : step s = .next t) : TimerFits t := by
  obtain ⟨p, u, moves, hu, rfl⟩ := step_clockEdge hs
  rcases clockEdge_cases hu with ⟨-, rfl⟩ | ⟨-, -, -, o, -, rfl⟩ | ⟨-, -, rfl⟩
  · exact timerFits_resetEdge s
  · exact h.accept o
  · exact h.edge

/-! ## The status and the log -/

/-- After acceptance the sticky bit records the errors so far and the one just written (R201, R204). -/
theorem accept_errSticky_iff {o : Decoded} (ho : o.Legal) (s : State) :
    (s.accept o).errSticky = true ↔ s.errSticky = true ∨ (s.accept o).errCode ≠ errOk := by
  cases o with
  | word w => simp [accept_word]
  | initSeq => simp [accept_initSeq]
  | error c => rcases ho with rfl | rfl <;> simp [accept_error, errOk, errUnsupported, errReserved]

/-- A phase's edge logs the word on the lines where E falls, and nothing where it does not (R103, R105). -/
theorem Inv.edge_log (h : Inv s) :
    (s.edge id).log =
      if s.eQ = true ∧ (s.edge id).eQ = false then s.log ++ [.latched s.rsQ s.dQ] else s.log := by
  rcases edge_cases id s with ⟨-, he⟩ | ⟨-, -, he⟩ | ⟨-, -, he⟩ | ⟨hp, -, he⟩ | ⟨-, -, -, -, he⟩ | ⟨-, -, -, he⟩ <;>
    rw [he]
  case inr.inr.inr.inl => simp [h.enable_iff_pulse.mpr hp]
  all_goals simp

/-! ## The steps of INIT -/

/-- The end of a GAP inside INIT is the edge of the next table word's instruction, with `seq_idx` advanced (R104). -/
theorem clockEdge_next_init_word (hr : p.rst = false) (hp : s.phase = .gap) (ht : s.timer = 0)
    (ha : s.seqActive = true) {k : Fin 4} (hk : s.seqIdx = k) (h3 : k ≠ 3) {i : Instr}
    (hi : exec i s = .next (s.startWord (initWord (k + 1)))) :
    ∃ t, exec i s = .next t ∧ clockEdge p s = .next { t with seqIdx := k + 1 } := by
  subst hk
  refine ⟨_, hi, ?_⟩
  rw [clockEdge_not_accepted hr (by simp [hp]), edge_gap id hp, gapEdge_zero ht, gapEnd_next ha h3,
    startWord_free _ (.inr ⟨hp, ht⟩), emit_eq]

end Sys2Proof.Machine

namespace Sys2Proof

open Machine

/-- Settles O35: the fields of the reset state. -/
theorem resetStateValues : Obligations.ResetStateValues := by
  intro p
  refine ⟨?_, ?_, ?_, ?_, ?_, ?_, ?_, ?_, ?_, ?_, ?_⟩ <;> rfl

/-- Settles O37: the reset state is what a reset edge leaves of it. -/
theorem invariantsHoldAtReset : Obligations.InvariantsHoldAtReset := by
  intro p
  rw [← resetEdge_resetWith p]
  exact ⟨inv_resetEdge _, timerFits_resetEdge _⟩

/-- Settles O38: a reset edge writes every register the invariants speak of. -/
theorem resetEstablishesInvariants : Obligations.ResetEstablishesInvariants := by
  intro s p hr
  exact ⟨s.resetEdge, clockEdge_reset hr, inv_resetEdge s, timerFits_resetEdge s⟩

/-- Settles O39, by the cases of a rising edge: reset, acceptance, and the edges of each phase. -/
theorem stepKeepsInvariants : Obligations.StepKeepsInvariants := fun _ _ h hs => h.step hs

/-- Settles O40, by the cases of a rising edge: the timer counts down, or is loaded with a length minus one. -/
theorem stepKeepsTimerWidth : Obligations.StepKeepsTimerWidth := fun _ _ h hs => h.step hs

/-- Settles O41, by induction on the run. -/
theorem reachableStatesMeetInvariants : Obligations.ReachableStatesMeetInvariants := by
  intro p moves k t hrun
  have h0 : Inv ((State.resetWith p).setHost moves) := (invariantsHoldAtReset p).1.setHost moves
  exact run_induction stepKeepsInvariants k h0 hrun

/-- Settles O30: one use of the INIT step for each further word of the table. -/
theorem initStepRunsNextBusWord : Obligations.InitStepRunsNextBusWord := by
  intro s p hr hp ht ha
  have next {k : Fin 4} (hk : s.seqIdx = k) (h3 : k ≠ 3) {i : Instr}
      (hi : exec i s = .next (s.startWord (initWord (k + 1)))) := clockEdge_next_init_word hr hp ht ha hk h3 hi
  exact ⟨fun hk => next hk (by decide) rfl, fun hk => next hk (by decide) rfl, fun hk => next hk (by decide) rfl⟩

/-- Settles O44: a phase's edge logs at a falling edge of E, a reset edge where E is high, acceptance never. -/
theorem logGrowsByFallingEdges : Obligations.LogGrowsByFallingEdges := by
  intro s t p h hc
  rcases clockEdge_cases hc with ⟨hr, rfl⟩ | ⟨hr, -, -, o, -, rfl⟩ | ⟨hr, -, rfl⟩
  · refine ⟨by simp [hr], fun he _ => ⟨s.params.tHold - s.timer, by simp [he]⟩, fun hn => ?_⟩
    have he : ¬s.eQ = true := fun he => hn ⟨he, rfl⟩
    simp [he]
  · refine ⟨fun ⟨he, he'⟩ => ?_, by simp [hr], fun _ => accept_log o s⟩
    simp [he] at he'
  · rw [h.edge_log]
    exact ⟨fun hf _ => if_pos hf, by simp [hr], fun hn => if_neg hn⟩

/-- Settles O45: an edge without reset and without an acceptance only carries the phase on. -/
theorem statusChangesOnlyAtAcceptance : Obligations.StatusChangesOnlyAtAcceptance := by
  intro s t p hr hc hn
  rw [clockEdge_not_accepted hr hn, Host.Outcome.next.injEq] at hc
  subst hc
  obtain ⟨hcode, hsticky, -⟩ := edge_id_frame s
  exact ⟨hcode, hsticky⟩

/-- Settles O46: reset clears the bit, acceptance adds its own error to it, and any other edge leaves it. -/
theorem stickyErrorClearedOnlyByReset : Obligations.StickyErrorClearedOnlyByReset := by
  intro s t p hc
  rcases clockEdge_cases hc with ⟨hr, rfl⟩ | ⟨hr, hi, hv, o, ho, rfl⟩ | ⟨hr, hn, rfl⟩
  · simp [hr]
  · have hset := accept_errSticky_iff ho s
    exact ⟨fun _ h => hset.mpr (.inl h), fun h h' => ⟨hr, hi, hv, (hset.mp h').resolve_left (by simp [h])⟩,
      fun _ _ _ he => hset.mpr (.inr he), by simp [hr]⟩
  · obtain ⟨-, hkeep, -⟩ := edge_id_frame s
    exact ⟨fun _ h => hkeep.trans h, fun h h' => absurd (hkeep.symm.trans h') (by simp [h]),
      fun _ hi hv => absurd ⟨hi, hv⟩ hn, by simp [hr]⟩

/-- Settles O47: both edges reset the block, or both only carry the phase on. -/
theorem portsIgnoredUnlessAccepted : Obligations.PortsIgnoredUnlessAccepted := by
  intro s p q hpq hp hq
  cases hr : p.rst with
  | true => rw [clockEdge_reset hr, clockEdge_reset (hpq ▸ hr)]
  | false =>
    have hr' : q.rst = false := hpq ▸ hr
    rw [clockEdge_not_accepted hr fun ⟨hi, hv⟩ => hp ⟨hr, hv, hi⟩,
      clockEdge_not_accepted hr' fun ⟨hi, hv⟩ => hq ⟨hr', hv, hi⟩]

/-- Settles O48: neither reset, acceptance nor a phase's edge writes the parameters. -/
theorem stepKeepsParameters : Obligations.StepKeepsParameters := by
  intro s t hs
  obtain ⟨p, u, moves, hu, rfl⟩ := step_clockEdge hs
  rcases clockEdge_cases hu with ⟨-, rfl⟩ | ⟨-, -, -, o, -, rfl⟩ | ⟨-, -, rfl⟩
  · rfl
  · exact accept_params o s
  · obtain ⟨-, -, hparams⟩ := edge_id_frame s
    exact hparams

end Sys2Proof
end

section
/-! PROOFS. No memory and no reordering (`20_memory.md` R59): the bus words of a request, the edges of one transaction
(R110), and the run of requests presented one after the other (R230). -/

namespace Sys2Proof.Machine

variable {s : State}

/-! ## The bus words of a request -/

/-- The bus words that accepting `o` sends, in order; INIT's are the table of R37. -/
def Decoded.words : Decoded → List BusWord
  | .word w => [w]
  | .initSeq => (List.finRange 4).map initWord
  | .error _ => []

/-! The pattern of R74 for each composed command is the byte assembled by R77 and R78. -/

theorem busWords_entryMode (x i sh : Bool) (arg : Byte) :
    busWords (.entryMode x i sh arg) = [command .entryModeSet (entryModeOptions i sh)] := by
  cases i <;> cases sh <;> rfl

theorem busWords_displayCtrl (d c b : Bool) (arg : Byte) :
    busWords (.displayCtrl d c b arg) = [command .displayControl (displayControlOptions d c b)] := by
  cases d <;> cases c <;> cases b <;> rfl

theorem busWords_shift (x d r : Bool) (arg : Byte) :
    busWords (.shift x d r arg) = [command .cursorDisplayShift (shiftOptions d r)] := by
  cases d <;> cases r <;> rfl

theorem busWords_functionSet (w n f : Bool) (arg : Byte) :
    busWords (.functionSet w n f arg) = [command .functionSet (functionSetOptions w n f)] := by
  cases w <;> cases n <;> cases f <;> rfl

theorem busWords_setCgram (flags : BitVec 3) (a : Byte) :
    busWords (.setCgram flags a) = [command .setCgramAddr (cgramOperand a)] := by
  have hbyte : ∀ a : Byte, 0b01#2 ++ a.extractLsb' 0 6 = commandByte .setCgramAddr (cgramOperand a) := by decide
  exact congrArg (fun b => [BusWord.mk false b]) (hbyte a)

theorem busWords_setDdram (flags : BitVec 3) (a : Byte) :
    busWords (.setDdram flags a) = [command .setDdramAddr (ddramOperand a)] := by
  have hbyte : ∀ a : Byte, 0b1#1 ++ a.extractLsb' 0 7 = commandByte .setDdramAddr (ddramOperand a) := by decide
  exact congrArg (fun b => [BusWord.mk false b]) (hbyte a)

/-- An instruction of a request word is presented as what sends its bus words. -/
theorem exec_req_words (i : Instr) (h : i.format = .req) :
    ∃ o : Decoded, (∀ s : State, exec i s = .next (s.present o)) ∧ busWords i = o.words := by
  cases i with
  | sendCmd | sendData | clear | home => exact ⟨.word _, fun _ => rfl, rfl⟩
  | entryMode x i sh arg => exact ⟨.word _, fun _ => rfl, busWords_entryMode x i sh arg⟩
  | displayCtrl d c b arg => exact ⟨.word _, fun _ => rfl, busWords_displayCtrl d c b arg⟩
  | shift x d r arg => exact ⟨.word _, fun _ => rfl, busWords_shift x d r arg⟩
  | functionSet w n f arg => exact ⟨.word _, fun _ => rfl, busWords_functionSet w n f arg⟩
  | setCgram flags a => exact ⟨.word _, fun _ => rfl, busWords_setCgram flags a⟩
  | setDdram flags a => exact ⟨.word _, fun _ => rfl, busWords_setDdram flags a⟩
  | init => exact ⟨.initSeq, fun _ => rfl, rfl⟩
  | readFlag | readData | reservedD | reservedE | reservedF => exact ⟨.error _, fun _ => rfl, rfl⟩
  | busClear | busHome | busEntryModeSet | busDisplayControl | busCursorDisplayShift | busFunctionSet
  | busSetCgramAddr | busSetDdramAddr | busData | writeChar | writeString => cases h

/-! ## One transaction -/

/-- A phase whose timer was loaded for `n` cycles ends with the `n`-th edge. -/
theorem run_phase {rs : List Request} {n : Nat} (hb : s.phase ≠ .idle) (hh : s.host = rs.map HostMove.request)
    (hn : 1 ≤ n) (ht : s.timer = n - 1) :
    Sys2Proof.core.run n s = .next (State.edge id { s with timer := 0 }) := by
  have hwait := run_countDown hb hh (n - 1) ht.ge
  have hlast : step { s with timer := s.timer - (n - 1) } = .next (State.edge id { s with timer := 0 }) := by
    rw [ht, Nat.sub_self, step_busy (s := { s with timer := 0 }) hb hh,
      ← edge_setHost (f := id) fun _ _ => rfl]
    rfl
  rw [← Nat.sub_add_cancel hn, run_add _ 1 hwait, run_one hlast]

/-- The transaction of the word on the lines at its last edge, at which GAP ends: its pulse is over and logged. -/
def State.gapOver (s : State) : State :=
  { s with eQ := false, log := s.log ++ [latchedEvent s.busWord], phase := .gap, timer := 0 }

/-- R110: a transaction that has just started ends `L` edges later. -/
theorem run_transaction {rs : List Request} (hl : s.params.Legal) (hp : s.phase = .setup)
    (ht : s.timer = s.params.tSetup - 1) (hh : s.host = rs.map HostMove.request) :
    Sys2Proof.core.run s.params.length s = .next s.gapOver.gapEnd := by
  obtain ⟨hsetup, hhold, hgap⟩ := hl
  have toPulse := run_phase (by simp [hp]) hh hsetup ht
  rw [edge_setup id (s := { s with timer := 0 }) hp, setupEdge_zero rfl] at toPulse
  have toGap := run_phase (n := s.params.tHold)
    (s := { s with eQ := true, phase := .pulse, timer := s.params.tHold - 1 }) nofun hh hhold rfl
  rw [edge_pulse id rfl, pulseEdge_zero rfl] at toGap
  have toEnd := run_phase (n := s.params.tGap)
    (s := { s.gapOver with timer := s.params.tGap - 1 }) nofun hh hgap rfl
  rw [edge_gap id rfl, gapEdge_zero rfl] at toEnd
  unfold Params.length
  rw [run_add _ _ ((run_add _ _ toPulse).trans toGap)]
  exact toEnd

/-! ## All words of a request -/

/-- The words a busy block has still to send: the one on the lines, and inside INIT the table's further ones (R104). -/
def State.wordsLeft (s : State) : List BusWord :=
  s.busWord :: if s.seqActive then ((List.finRange 4).drop (s.seqIdx + 1)).map initWord else []

theorem wordsLeft_last (h : s.seqActive = false ∨ s.seqIdx = 3) : s.wordsLeft = [s.busWord] := by
  rcases h with h | h <;> simp [State.wordsLeft, h]

/-- The end of GAP inside INIT leaves all words but the one just sent. -/
theorem wordsLeft_next (ha : s.seqActive = true) (h3 : s.seqIdx ≠ 3) :
    s.wordsLeft = s.busWord :: s.gapEnd.wordsLeft := by
  have hdrop : ∀ k : Fin 4, k ≠ 3 → ((List.finRange 4).drop (k + 1)).map initWord =
      initWord (k + 1) :: ((List.finRange 4).drop ((k + 1 : Fin 4) + 1)).map initWord := by decide
  rw [gapEnd_next ha h3]
  simp only [State.wordsLeft, ha, if_true]
  exact congrArg _ (hdrop s.seqIdx h3)

/-- Acceptance that sends a word starts its transaction, with exactly the request's words left to send. -/
theorem accept_wordsLeft {o : Decoded} (ha : s.seqActive = false) (ho : o.words ≠ []) :
    (s.accept o).phase = .setup ∧ (s.accept o).timer = s.params.tSetup - 1 ∧
      (s.accept o).errSticky = s.errSticky ∧ (s.accept o).wordsLeft = o.words := by
  cases o with
  | word w => exact ⟨rfl, rfl, rfl, wordsLeft_last (.inl ha)⟩
  | initSeq => exact ⟨rfl, rfl, rfl, rfl⟩
  | error c => exact absurd rfl ho

/-- R230 for the edges after an acceptance: `L` for each word left, after which the block is IDLE and has logged
exactly these words. -/
theorem run_wordsLeft {rs : List Request} {ws : List BusWord} (hws : s.wordsLeft = ws) (hl : s.params.Legal)
    (hp : s.phase = .setup) (ht : s.timer = s.params.tSetup - 1) (hh : s.host = rs.map HostMove.request) :
    ∃ u, Sys2Proof.core.run (s.params.length * ws.length) s = .next u ∧ u.phase = .idle ∧ u.host = s.host ∧
      u.log = s.log ++ ws.map latchedEvent ∧ u.errSticky = s.errSticky := by
  induction ws generalizing s with
  | nil => cases hws
  | cons w ws ih =>
    have hrun := run_transaction hl hp ht hh
    by_cases hlast : s.seqActive = false ∨ s.seqIdx = 3
    · rw [wordsLeft_last hlast] at hws
      cases hws
      rw [gapEnd_last (s := s.gapOver) hlast] at hrun
      rw [List.length_singleton, Nat.mul_one]
      exact ⟨_, hrun, rfl, rfl, rfl, rfl⟩
    · obtain ⟨ha, h3⟩ : s.seqActive = true ∧ s.seqIdx ≠ 3 := by simpa using hlast
      have hnext : s.wordsLeft = s.busWord :: s.gapOver.gapEnd.wordsLeft := wordsLeft_next (s := s.gapOver) ha h3
      obtain ⟨rfl, hws'⟩ := List.cons.inj (hnext.symm.trans hws)
      rw [gapEnd_next (s := s.gapOver) ha h3] at hrun hws'
      obtain ⟨u, hu, hidle, hhost, hlog, hsticky⟩ := ih hws' hl rfl rfl hh
      refine ⟨u, ?_, hidle, hhost, hlog.trans (List.append_cons s.log _ _).symm, hsticky⟩
      rw [List.length_cons, Nat.mul_succ, Nat.add_comm, run_add _ _ hrun]
      exact hu

/-- R230 for one request presented in IDLE: `L` edges for each of its words after the edge that accepts it, exactly its
words logged, and the sticky bit set if it sends none (R201). -/
theorem run_request {r : Request} {rs : List Request} (hl : s.params.Legal) (hi : s.phase = .idle)
    (ha : s.seqActive = false) (hh : s.host = (r :: rs).map HostMove.request) :
    ∃ u, Sys2Proof.core.run (1 + s.params.length * (busWords (decodeRequest r)).length) s = .next u ∧
      u.phase = .idle ∧ u.host = rs.map HostMove.request ∧
      u.log = s.log ++ (busWords (decodeRequest r)).map latchedEvent ∧
      u.errSticky = (s.errSticky || (busWords (decodeRequest r)).isEmpty) := by
  obtain ⟨o, hexec, hwords⟩ := exec_req_words _ (decodeRequest_format r)
  have hstep : step s = .next ((s.accept o).setHost (rs.map HostMove.request)) :=
    step_accept hi hh (by rw [hexec, present_idle o hi])
  rw [hwords, run_add _ _ (run_one hstep)]
  cases ho : o.words with
  | nil =>
    cases o with
    | word w => cases ho
    | initSeq => cases ho
    | error c => exact ⟨_, rfl, hi, rfl, (List.append_nil _).symm, (Bool.or_true _).symm⟩
  | cons w ws =>
    obtain ⟨hp, ht, hkeep, hleft⟩ := accept_wordsLeft (o := o) ha (by simp [ho])
    obtain ⟨u, hu, hidle, hhost, hlog, hsticky⟩ :=
      run_wordsLeft (s := (s.accept o).setHost (rs.map HostMove.request)) (hleft.trans ho) (by simpa using hl) hp
        (by simpa using ht) rfl
    exact ⟨u, by simpa using hu, hidle, hhost, by simpa using hlog, by simpa [hkeep] using hsticky⟩

end Sys2Proof.Machine

namespace Sys2Proof

open Machine

/-- R34 along a run. -/
theorem Machine.run_keeps_params {s t : State} {k : Nat} (h : core.run k s = .next t) : t.params = s.params :=
  run_induction (P := fun u => u.params = s.params) (fun u v hu hs => (stepKeepsParameters u v hs).trans hu) k rfl h

/-- Settles O52, by induction on the requests: between two of them the block is IDLE and meets the invariants. -/
theorem requestsRunInAcceptanceOrder : Obligations.RequestsRunInAcceptanceOrder := by
  intro s rs hinv hl hi hh
  induction rs generalizing s with
  | nil => exact ⟨s, rfl, hi, hh, rfl, by simp, by simp⟩
  | cons r rs ih =>
    obtain ⟨v, hrun, hidle, hhost, hlog, hsticky⟩ := run_request hl hi (hinv.inactive_of_idle hi) hh
    have hinv' : Inv v := run_induction stepKeepsInvariants _ hinv hrun
    have hparams : v.params = s.params := run_keeps_params hrun
    obtain ⟨u, hrun', hidle', hhost', hparams', hlog', hsticky'⟩ := ih v hinv' (hparams ▸ hl) hidle hhost
    rw [hparams] at hrun' hparams'
    refine ⟨u, ?_, hidle', hhost', hparams', ?_, ?_⟩
    · rw [List.map_cons, List.sum_cons, run_add _ _ hrun, hrun']
    · rw [hlog', hlog, List.flatMap_cons, List.append_assoc]
    · rw [hsticky', hsticky, List.any_cons, Bool.or_assoc]

end Sys2Proof
end

section
/-! PROOFS. Words and instructions (`30_encoding.md` R70 to R74, R76, R81): each request and bus word decodes back to its
instruction, and the undocumented bus words are those the decoder rejects. -/

namespace Sys2Proof

open Machine

/-! ## Request words -/

/-- R70: the fields of a packed request are those it was packed from. -/
theorem decode_request_word (r : Request) : decode (.req r.word) = .ok (decodeRequest r) := by
  rw [decode, Request.ofWord_word]

/-- R71, by the sixteen opcodes: the instruction of a request is encoded as that request's word. -/
theorem encode_decodeRequest (r : Request) : encode (decodeRequest r) = [.req r.word] := by
  obtain ⟨⟨op⟩, flags, arg⟩ := r
  fin_cases op <;> simp [decodeRequest, encode]

/-- An instruction of the REQ format is the decoding of the request it is encoded as. -/
theorem encode_of_format_req {i : Instr} (h : i.format = .req) :
    ∃ r : Request, encode i = [.req r.word] ∧ decodeRequest r = i := by
  cases i with
  | sendCmd | sendData | clear | home | setCgram | setDdram | init | readFlag | readData | reservedD | reservedE
  | reservedF => exact ⟨_, rfl, rfl⟩
  | entryMode | displayCtrl | shift | functionSet => exact ⟨_, rfl, by simp [decodeRequest]⟩
  | busClear | busHome | busEntryModeSet | busDisplayControl | busCursorDisplayShift | busFunctionSet
  | busSetCgramAddr | busSetDdramAddr | busData | writeChar | writeString => cases h

/-! ## Bus words -/

/-- R74, by the bytes: a command byte that decodes is the encoding of its command. -/
theorem encode_decodeCommand : ∀ b : Byte, ∀ i ∈ (decodeCommand b).toOption,
    encode i = [.bus (BusWord.bits ⟨false, b⟩)] := by decide

theorem encode_of_decodeBusWord {w : BusWord} {i : Instr} (h : decodeBusWord w = .ok i) : encode i = [.bus w.bits] := by
  obtain ⟨rs, b⟩ := w
  cases rs with
  | false =>
    have hb : decodeCommand b = .ok i := h
    exact encode_decodeCommand b i (by rw [hb]; rfl)
  | true =>
    cases h
    rfl

/-- An instruction of the BUS format is the decoding of the word it is encoded as, and puts that word on the bus. -/
theorem encode_of_format_bus {i : Instr} (h : i.format = .bus) :
    ∃ w, encode i = [.bus w] ∧ decode (.bus w) = .ok i ∧ busWords i = [BusWord.ofBits w] := by
  cases i with
  | busClear => exact ⟨_, rfl, by decide⟩
  | busHome => exact ⟨_, rfl, by decide⟩
  | busEntryModeSet i s => exact ⟨_, rfl, by revert i s; decide⟩
  | busDisplayControl d c b => exact ⟨_, rfl, by revert d c b; decide⟩
  | busCursorDisplayShift t r => exact ⟨_, rfl, by revert t r; decide⟩
  | busFunctionSet w n f => exact ⟨_, rfl, by revert w n f; decide⟩
  | busSetCgramAddr a => exact ⟨_, rfl, by revert a; decide⟩
  | busSetDdramAddr a => exact ⟨_, rfl, by revert a; decide⟩
  | busData d => exact ⟨_, rfl, by revert d; decide⟩
  | sendCmd | sendData | clear | home | entryMode | displayCtrl | shift | functionSet | setCgram | setDdram | init
  | readFlag | readData | reservedD | reservedE | reservedF | writeChar | writeString => cases h

/-- Requests and pseudo-operations are encoded as request words only. -/
theorem format_of_encode_bus {i : Instr} {w : BusBits} (h : encode i = [.bus w]) : i.format = .bus := by
  cases hf : i.format with
  | req =>
    obtain ⟨r, hr, -⟩ := encode_of_format_req hf
    simp [hr] at h
  | bus => rfl
  | pseudo =>
    cases i with
    | writeChar c => simp [encode] at h
    | writeString cs => simp [encode] at h
    | _ => cases hf

/-! ## The round trips -/

/-- Settles O1, by the two formats. -/
theorem requestsAndBusWordsRoundTrip : Obligations.RequestsAndBusWordsRoundTrip := by
  intro i hi
  cases hf : i.format with
  | req =>
    obtain ⟨r, hencode, hdecode⟩ := encode_of_format_req hf
    exact ⟨_, hencode, by rw [decode_request_word, hdecode]⟩
  | bus =>
    obtain ⟨w, hencode, hdecode, -⟩ := encode_of_format_bus hf
    exact ⟨_, hencode, hdecode⟩
  | pseudo => exact absurd hf hi

/-- Settles O2, by the two formats: unpacking a word and packing it again gives the word. -/
theorem decodedWordsEncodeBack : Obligations.DecodedWordsEncodeBack := by
  intro c i h
  cases c with
  | req w =>
    cases h
    rw [encode_decodeRequest, Request.word_ofWord]
  | bus w => rw [encode_of_decodeBusWord h, BusWord.bits_ofBits]

/-- Settles O22: only bus-word instructions are encoded as bus words, and each carries its own. -/
theorem busInstructionsCarryTheirWord : Obligations.BusInstructionsCarryTheirWord := by
  intro i w h
  obtain ⟨w', hencode, -, hwords⟩ := encode_of_format_bus (format_of_encode_bus h)
  cases hencode.symm.trans h
  exact hwords

/-- Settles O4: the decoder's answer to each of the twenty words. -/
theorem specWordsDecode : Obligations.SpecWordsDecode := by
  unfold Obligations.SpecWordsDecode
  decide

/-! ## The rejected words -/

/-- Settles O6, by the bytes. -/
theorem commandFamilyIsTopBit : Obligations.CommandFamilyIsTopBit := by
  unfold Obligations.CommandFamilyIsTopBit
  decide

/-- R81 by families: HOME has no option bit for its D0, and CURSOR-DISPLAY-SHIFT and FUNCTION-SET leave D1 and D0 at 0;
the other families use every bit below their selector. -/
theorem decodeCommand_error_iff (b : Byte) :
    (∃ e, decodeCommand b = .error e) ↔
      commandFamily b = none ∨ (commandFamily b = some .home ∧ b.getLsbD 0 = true) ∨
      ((commandFamily b = some .cursorDisplayShift ∨ commandFamily b = some .functionSet) ∧
        (b.getLsbD 1 || b.getLsbD 0) = true) := by
  unfold decodeCommand
  cases commandFamily b with
  | none => simp
  | some f =>
    cases f with
    | home => cases b.getLsbD 0 <;> simp
    | cursorDisplayShift | functionSet => cases b.getLsbD 1 || b.getLsbD 0 <;> simp
    | clear | entryModeSet | displayControl | setCgramAddr | setDdramAddr => simp

theorem decodeBusWord_error_iff (w : BusWord) :
    (∃ e, decodeBusWord w = .error e) ↔ w.rs = false ∧ ∃ e, decodeCommand w.byte = .error e := by
  unfold decodeBusWord
  cases w.rs <;> simp

/-- Settles O5: the rejected bytes by family, and each family as its range of bytes. -/
theorem undocumentedBusWordsRejected : Obligations.UndocumentedBusWordsRejected := by
  intro w
  have hbyte : w.getLsbD 8 = false → (BusWord.ofBits w).byte.toNat = w.toNat := by
    revert w
    decide
  have hbit0 : ∀ b : Byte, b.getLsbD 0 = true ↔ b.toNat % 2 = 1 := by decide
  have hbits10 : ∀ b : Byte, (b.getLsbD 1 || b.getLsbD 0) = true ↔ b.toNat % 4 ≠ 0 := by decide
  rw [decode, decodeBusWord_error_iff]
  refine and_congr_right fun hrs => ?_
  rw [← hbyte hrs]
  generalize (BusWord.ofBits w).byte = b
  obtain ⟨hnone, -, hhome, -, -, hshift, hfunction, -, -⟩ := commandFamilyIsTopBit b
  have hzero : b = 0x00 ↔ b.toNat = 0 := BitVec.toNat_inj.symm
  rw [decodeCommand_error_iff, hnone, hhome, hshift, hfunction, hbit0, hbits10, hzero]
  omega

end Sys2Proof
end

section
/-! PROOFS. The operands of a request (`30_encoding.md` R72 to R78): selector and options, the address masks, and the
ignored fields. -/

namespace Sys2Proof.Machine

/-! ## Selector and options -/

/-- R75: what does not overlap the selector is added to it. -/
theorem commandByte_eq_add {f : Family} {options : Byte} (h : selector f &&& options = 0) :
    commandByte f options = selector f + options :=
  (BitVec.add_eq_or_of_and_eq_zero _ _ h).symm

/-- A mask that does not overlap the selector keeps every address off it (R77). -/
theorem selector_and_masked {f : Family} {mask : Byte} (h : selector f &&& mask = 0) (a : Byte) :
    selector f &&& (a &&& mask) = 0 := by
  rw [BitVec.and_comm a, ← BitVec.and_assoc, h]
  exact BitVec.zero_and

theorem selector_and_cgramOperand (a : Byte) : selector .setCgramAddr &&& cgramOperand a = 0 :=
  selector_and_masked (by decide) a

theorem selector_and_ddramOperand (a : Byte) : selector .setDdramAddr &&& ddramOperand a = 0 :=
  selector_and_masked (by decide) a

@[simp] theorem cgramOperand_toNat (a : Byte) : (cgramOperand a).toNat = a.toNat % 64 :=
  Nat.and_two_pow_sub_one_eq_mod _ 6

@[simp] theorem ddramOperand_toNat (a : Byte) : (ddramOperand a).toNat = a.toNat % 128 :=
  Nat.and_two_pow_sub_one_eq_mod _ 7

theorem commandByte_setCgramAddr (a : Byte) :
    commandByte .setCgramAddr (cgramOperand a) = BitVec.ofNat 8 (0x40 + a.toNat % 64) := by
  rw [commandByte_eq_add (selector_and_cgramOperand a)]
  exact BitVec.eq_of_toNat_eq (by simp [selector])

theorem commandByte_setDdramAddr (a : Byte) :
    commandByte .setDdramAddr (ddramOperand a) = BitVec.ofNat 8 (0x80 + a.toNat % 128) := by
  rw [commandByte_eq_add (selector_and_ddramOperand a)]
  exact BitVec.eq_of_toNat_eq (by simp [selector])

/-! ## The two address commands -/

theorem exec_setCgram (flags : BitVec 3) (a : Byte) (s : State) :
    exec (.setCgram flags a) s = .next (s.present (.word (command .setCgramAddr (cgramOperand a)))) := rfl

theorem exec_setDdram (flags : BitVec 3) (a : Byte) (s : State) :
    exec (.setDdram flags a) s = .next (s.present (.word (command .setDdramAddr (ddramOperand a)))) := rfl

end Sys2Proof.Machine

namespace Sys2Proof

open Machine

/-- Settles O7, by the families: no option bit and no address bit lies in the selector, and the rest follows. -/
theorem selectorAndOptionsDisjoint : Obligations.SelectorAndOptionsDisjoint := by
  intro f options h
  have hdisjoint : selector f &&& options = 0 := by
    rcases h with ⟨rfl | rfl, rfl⟩ | ⟨rfl, i, s, rfl⟩ | ⟨rfl, d, c, b, rfl⟩ | ⟨rfl, t, r, rfl⟩ |
      ⟨rfl, w, n, g, rfl⟩ | ⟨rfl, a, rfl⟩ | ⟨rfl, a, rfl⟩
    · rfl
    · rfl
    · revert i s
      decide
    · revert d c b
      decide
    · revert t r
      decide
    · revert w n g
      decide
    · exact selector_and_cgramOperand a
    · exact selector_and_ddramOperand a
  exact ⟨hdisjoint, commandByte_eq_add hdisjoint, BitVec.or_comm _ _⟩

/-- Settles O14: acceptance sends the command byte, which is the selector plus the masked address. -/
theorem addressCommandsMaskAndStart : Obligations.AddressCommandsMaskAndStart := by
  intro s flags a hi
  rw [exec_setCgram, exec_setDdram, present_idle _ hi, present_idle _ hi, accept_word, accept_word,
    ← commandByte_setCgramAddr, ← commandByte_setDdramAddr]
  exact ⟨rfl, rfl⟩

/-- Settles O19: the meaning of each request does not read the fields it ignores. -/
theorem ignoredFieldsHaveNoEffect : Obligations.IgnoredFieldsHaveNoEffect := by
  intro s f a x b2 b1 b0
  exact ⟨rfl, rfl, rfl, rfl, rfl, rfl, rfl, rfl, rfl, rfl, rfl, rfl, rfl, rfl, rfl, rfl⟩

end Sys2Proof
end

section
/-! PROOFS. The host's assembler (`30_encoding.md` R83) and pseudo-operations (R84): what an assembled line can be, the
expansion of a pseudo-operation in a step, and the run of an assembled program. -/

namespace Sys2Proof.Machine

/-! ## What an assembled line can be -/

/-- What the assembler may answer: a request of an opcode that has a mnemonic (U9), or a pseudo-operation whose operand
fits (U10). -/
def HostMove.Documented (m : HostMove) : Prop :=
  (∃ r, m = .request r ∧ r.op.toNat ≤ 0xC) ∨
  (∃ c, m = .writeChar c ∧ (Instr.writeChar c).WellFormed) ∨
  (∃ cs, m = .writeString cs ∧ (Instr.writeString cs).WellFormed)

theorem HostMove.Documented.fits {m : HostMove} (h : m.Documented) : m.fits = true := by
  rcases h with ⟨r, rfl, -⟩ | ⟨c, rfl, hc⟩ | ⟨cs, rfl, hcs⟩
  · rfl
  · exact hc
  · exact hcs

/-- A mnemonic that carries its opcode carries a documented one. -/
def Mnemonic.documented : Mnemonic → Bool
  | .byteOp op => decide (op.toNat ≤ 0xC)
  | .plainOp op => decide (op.toNat ≤ 0xC)
  | _ => true

/-- The reserved opcodes have no mnemonic (U9). -/
theorem documented_of_lookup {w : String} {k : Mnemonic} (h : mnemonics.lookup w = some k) : k.documented = true := by
  have hall : ∀ p ∈ mnemonics, p.2.documented = true := by decide
  obtain ⟨before, after, heq, -⟩ := List.lookup_eq_some_iff.mp h
  exact hall (w, k) (by simp [heq])

section
variable {m : HostMove} {op : BitVec 4}

theorem documented_of_op (hop : op.toNat ≤ 0xC) (h : ∃ r, m = .request r ∧ r.op = op) : m.Documented := by
  obtain ⟨r, rfl, rfl⟩ := h
  exact .inl ⟨r, rfl, hop⟩

theorem byteRequest_op {t : Token} (h : byteRequest op t = .ok m) : ∃ r, m = .request r ∧ r.op = op := by
  unfold byteRequest at h
  split at h
  · cases h
    exact ⟨_, rfl, rfl⟩
  · cases h

theorem flagRequest_op {b2 b1 b0 : Option Bool} (h : flagRequest op b2 b1 b0 = .ok m) :
    ∃ r, m = .request r ∧ r.op = op := by
  unfold flagRequest at h
  split at h
  · cases h
    exact ⟨_, rfl, rfl⟩
  · cases h

theorem plainRequest_op (h : plainRequest op = .ok m) : ∃ r, m = .request r ∧ r.op = op := by
  cases h
  exact ⟨_, rfl, rfl⟩

theorem writeCharMove_wellFormed {c : CharOperand} {e : AsmError} (h : writeCharMove c e = .ok m) :
    m = .writeChar c ∧ (Instr.writeChar c).WellFormed := by
  unfold writeCharMove at h
  split at h
  next hc =>
    cases h
    exact ⟨rfl, hc⟩
  next => cases h

theorem assembleWriteChar_wellFormed {t : Token} (h : assembleWriteChar t = .ok m) :
    ∃ c, m = .writeChar c ∧ (Instr.writeChar c).WellFormed := by
  unfold assembleWriteChar at h
  split at h
  · exact ⟨_, writeCharMove_wellFormed h⟩
  · split at h
    · exact ⟨_, writeCharMove_wellFormed h⟩
    · cases h
  · cases h
  · cases h

/-- A string with no character that does not fit is well formed. -/
theorem writeStringMove_wellFormed {cs : List Char} (h : writeStringMove cs = .ok m) :
    m = .writeString cs ∧ (Instr.writeString cs).WellFormed := by
  unfold writeStringMove at h
  split at h
  next => cases h
  next hnone =>
    cases h
    exact ⟨rfl, by simpa [Instr.WellFormed, Instr.wellFormed] using hnone⟩

/-- R83, R84, by the mnemonics and their operands. -/
theorem assembleParts_documented {k : Mnemonic} {ts : List Token} (hk : k.documented = true)
    (h : assembleParts k ts = .ok m) : m.Documented := by
  unfold assembleParts at h
  split at h
  next => exact documented_of_op (of_decide_eq_true hk) (byteRequest_op h)
  next => exact documented_of_op (of_decide_eq_true hk) (plainRequest_op h)
  next => exact documented_of_op (by decide) (flagRequest_op h)
  next => exact documented_of_op (by decide) (flagRequest_op h)
  next => exact documented_of_op (by decide) (flagRequest_op h)
  next => exact documented_of_op (by decide) (flagRequest_op h)
  next => exact .inr (.inl (assembleWriteChar_wellFormed h))
  next => exact .inr (.inr ⟨_, writeStringMove_wellFormed h⟩)
  next => cases h

/-- A line the assembler takes is a mnemonic of R83 or R84 with operands it takes. -/
theorem assembleLine_parts {line : List Char} (h : assembleLine line = .ok m) :
    ∃ w k ts, mnemonics.lookup w = some k ∧ assembleParts k ts = .ok m := by
  unfold assembleLine at h
  split at h
  · cases h
  · split at h
    next hk _ => exact ⟨_, _, _, hk, h⟩
    next => cases h
    next => cases h
  · cases h

theorem assembleLine_documented {line : List Char} (h : assembleLine line = .ok m) : m.Documented := by
  obtain ⟨w, k, ts, hk, hparts⟩ := assembleLine_parts h
  exact assembleParts_documented (documented_of_lookup hk) hparts

end

theorem assemble_fits {lines : List (List Char)} {moves : List HostMove} (h : assemble lines = .ok moves) :
    ∀ m ∈ moves, m.fits = true := by
  induction lines generalizing moves with
  | nil =>
    cases h
    nofun
  | cons line lines ih =>
    unfold assemble at h
    split at h
    next hline hlines =>
      cases h
      exact List.forall_mem_cons.mpr ⟨(assembleLine_documented hline).fits, ih hlines⟩
    next => cases h
    next => cases h

/-! ## Moves that fit are never refused -/

theorem step_next_of_fits {s : State} (h : ∀ m ∈ s.host, m.fits = true) : ∃ t, step s = .next t := by
  obtain ⟨d, hd, -⟩ := drivenBy_fits h
  rcases step_next_or_refused s with hnext | ⟨e, he, -⟩
  · exact hnext
  · rw [hd] at he
    cases he

theorem run_next_of_fits {s : State} (k : Nat) (h : ∀ m ∈ s.host, m.fits = true) :
    ∃ t, Sys2Proof.core.run k s = .next t := by
  induction k generalizing s with
  | zero => exact ⟨s, rfl⟩
  | succ k ih =>
    obtain ⟨t, ht⟩ := step_next_of_fits h
    rw [run_succ k ht]
    exact ih (step_keeps_fits h ht)

/-! ## Pseudo-operations -/

section
variable {s t : State} {c : CharOperand} {cs : List Char} {e : Refusal}

theorem exec_writeChar_next (h : exec (.writeChar c) s = .next t) :
    ∃ r, charRequest c = .ok r ∧ t = s.queueRequests [r] := by
  simp only [exec, execWriteChar] at h
  split at h
  next hr =>
    cases h
    exact ⟨_, hr, rfl⟩
  next => cases h

theorem exec_writeChar_refused (h : exec (.writeChar c) s = .refused e) : charRequest c = .error e := by
  simp only [exec, execWriteChar] at h
  split at h
  next => cases h
  next he =>
    cases h
    exact he

theorem exec_writeString_next (h : exec (.writeString cs) s = .next t) :
    ∃ rs, stringRequests cs = .ok rs ∧ t = s.queueRequests rs := by
  simp only [exec, execWriteString] at h
  split at h
  next hrs =>
    cases h
    exact ⟨_, hrs, rfl⟩
  next => cases h

theorem exec_writeString_refused (h : exec (.writeString cs) s = .refused e) : stringRequests cs = .error e := by
  simp only [exec, execWriteString] at h
  split at h
  next => cases h
  next he =>
    cases h
    exact he

/-- WRITE_CHAR drives what its one request drives (R84). -/
theorem drivenBy_writeChar {r : Request} (h : charRequest c = .ok r) (rest : List HostMove) :
    drivenBy (.writeChar c :: rest) = drivenBy ([r].map HostMove.request ++ rest) := by
  rw [drivenBy, h]
  rfl

/-- WRITE_STRING drives what its requests drive, and if there is none, what the moves after it drive (R162). -/
theorem drivenBy_writeString {rs : List Request} (h : stringRequests cs = .ok rs) (rest : List HostMove) :
    drivenBy (.writeString cs :: rest) = drivenBy (rs.map HostMove.request ++ rest) := by
  rw [drivenBy, h]
  cases rs <;> rfl

theorem step_refused_of_drivenBy (h : drivenBy s.host = .error e) : step s = .refused e := by
  simp only [step, hostedEdge, h]

/-- Where the host's moves drive what requests before `rest` drive, the step is that of a host that has taken up these
requests. -/
theorem step_of_queued {rs : List Request} {rest : List HostMove}
    (h : drivenBy s.host = drivenBy (rs.map HostMove.request ++ rest)) :
    step s = step (({ s with host := rest } : State).queueRequests rs) :=
  step_of_drivenBy h

end

end Sys2Proof.Machine

namespace Sys2Proof

open Machine

/-- Settles O26: the mnemonic is one of the table, and each of these assembles to a documented move. -/
theorem assembledLinesFit : Obligations.AssembledLinesFit := fun _ _ h => assembleLine_documented h

/-- Settles O29: the moves of a pseudo-operation drive what those of its expansion drive, or are refused as it is. -/
theorem stepExpandsPseudoOperations : Obligations.StepExpandsPseudoOperations := by
  intro s rest
  refine ⟨fun c t hh he => ?_, fun cs t hh he => ?_, fun c e hh he => ?_, fun cs e hh he => ?_⟩
  · obtain ⟨r, hr, rfl⟩ := exec_writeChar_next he
    exact step_of_queued (by rw [hh, drivenBy_writeChar hr])
  · obtain ⟨rs, hrs, rfl⟩ := exec_writeString_next he
    exact step_of_queued (by rw [hh, drivenBy_writeString hrs])
  · exact step_refused_of_drivenBy (by rw [hh, drivenBy, exec_writeChar_refused he])
  · exact step_refused_of_drivenBy (by rw [hh, drivenBy, exec_writeString_refused he])

/-- Settles O57, by induction on the number of steps: the moves of an assembled program fit, and every step leaves
moves that fit. -/
theorem assembledProgramsAreNeverRefused : Obligations.AssembledProgramsAreNeverRefused := by
  rintro lines moves s k h rfl
  exact run_next_of_fits k (assemble_fits h)

end Sys2Proof
end

section
/-! PROOFS. The bus primitives and the request handshake (`40_bus_primitives.md`): the phases (R101 to R105), acceptance
(R106, R112), the bus words, the bus around the edges of E (R111), and the timelines of one transaction and of INIT
(R110, R163). -/

namespace Sys2Proof.Machine

variable {s t : State}

/-! ## The phases -/

/-- R25, R101: a busy block whose timer is not 0 only counts down. -/
theorem edge_pos (f : State → State) (hb : s.phase ≠ .idle) (ht : s.timer ≠ 0) :
    s.edge f = { s with timer := s.timer - 1 } := by
  rcases edge_cases f s with ⟨hi, -⟩ | ⟨-, -, he⟩ | ⟨-, h0, -⟩ | ⟨-, h0, -⟩ | ⟨-, h0, -⟩ | ⟨-, h0, -⟩
  · exact absurd hi hb
  · exact he
  all_goals exact absurd h0 ht

/-- R111 for the edges of a phase: those that write E keep the word on the lines, and the end of GAP, which may write
the word, keeps E low. -/
theorem Inv.edge_bus_stable (h : Inv s) :
    (s.edge id).busWord = s.busWord ∨ (s.eQ = false ∧ (s.edge id).eQ = false) := by
  rcases edge_cases id s with ⟨-, he⟩ | ⟨-, -, he⟩ | ⟨-, -, he⟩ | ⟨-, -, he⟩ | ⟨hp, -, -, -, he⟩ | ⟨-, -, -, he⟩ <;>
    rw [he]
  case inr.inr.inr.inr.inl =>
    have hlow : s.eQ = false := h.eQ_eq_false (by simp [hp])
    exact .inr ⟨hlow, hlow⟩
  all_goals exact .inl rfl

/-! ## Bus words -/

theorem busWords_busSetCgramAddr (a : BitVec 6) :
    busWords (.busSetCgramAddr a) = [command .setCgramAddr (a.setWidth 8)] := by
  have hbyte : ∀ a : BitVec 6, 0b01#2 ++ a = commandByte .setCgramAddr (a.setWidth 8) := by decide
  exact congrArg (fun b => [BusWord.mk false b]) (hbyte a)

theorem busWords_busSetDdramAddr (a : BitVec 7) :
    busWords (.busSetDdramAddr a) = [command .setDdramAddr (a.setWidth 8)] := by
  have hbyte : ∀ a : BitVec 7, 0b1#1 ++ a = commandByte .setDdramAddr (a.setWidth 8) := by decide
  exact congrArg (fun b => [BusWord.mk false b]) (hbyte a)

/-- A bus-word instruction runs as the start of its one word; the patterns with option bits are those of the composed
commands. -/
theorem exec_bus_word (i : Instr) (h : i.format = .bus) :
    ∃ w : BusWord, (∀ s : State, exec i s = .next (s.startWord w)) ∧ busWords i = [w] := by
  cases i with
  | busClear | busHome | busData => exact ⟨_, fun _ => rfl, rfl⟩
  | busEntryModeSet i sh => exact ⟨_, fun _ => rfl, busWords_entryMode false i sh 0⟩
  | busDisplayControl d c b => exact ⟨_, fun _ => rfl, busWords_displayCtrl d c b 0⟩
  | busCursorDisplayShift d r => exact ⟨_, fun _ => rfl, busWords_shift false d r 0⟩
  | busFunctionSet w n f => exact ⟨_, fun _ => rfl, busWords_functionSet w n f 0⟩
  | busSetCgramAddr a => exact ⟨_, fun _ => rfl, busWords_busSetCgramAddr a⟩
  | busSetDdramAddr a => exact ⟨_, fun _ => rfl, busWords_busSetDdramAddr a⟩
  | sendCmd | sendData | clear | home | entryMode | displayCtrl | shift | functionSet | setCgram | setDdram | init
  | readFlag | readData | reservedD | reservedE | reservedF | writeChar | writeString => cases h

/-! ## Acceptance -/

theorem exec_sendCmd (flags : BitVec 3) (arg : Byte) (s : State) :
    exec (.sendCmd flags arg) s = .next (s.present (.word ⟨false, arg⟩)) := rfl

theorem exec_sendData (flags : BitVec 3) (arg : Byte) (s : State) :
    exec (.sendData flags arg) s = .next (s.present (.word ⟨true, arg⟩)) := rfl

theorem exec_init (flags : BitVec 3) (arg : Byte) (s : State) :
    exec (.init flags arg) s = .next (s.present .initSeq) := rfl

theorem decodeRequest_of_initOp {r : Request} (h : r.op = 0xA) : decodeRequest r = .init r.flags r.arg := by
  simp [decodeRequest, h]

/-- A request that asks for one word is accepted as that word. -/
theorem exec_single_word {i : Instr} {w : BusWord} (h : i.format = .req) (hw : busWords i = [w]) (s : State) :
    exec i s = .next (s.present (.word w)) := by
  obtain ⟨o, hexec, hwords⟩ := exec_req_words i h
  rw [hwords] at hw
  rw [hexec]
  cases o with
  | word v =>
    cases hw
    rfl
  | initSeq => cases hw
  | error c => cases hw

/-- R112: where the host holds a request, the step runs it, and the host lets go of it exactly in IDLE. -/
theorem step_request {r : Request} {rest : List HostMove} (hh : s.host = .request r :: rest)
    (he : exec (decodeRequest r) s = .next t) :
    step s = .next (t.setHost (if s.phase = .idle then rest else .request r :: rest)) := by
  have hleft := left_presenting r [] rest s
  simp only [List.map_nil, List.nil_append, List.map_cons, List.cons_append] at hleft
  simp only [step, hostedEdge, hh, drivenBy, hleft]
  simp [clockEdge, Driven.requests, Ports.presenting, he]

/-! ## The timeline of one transaction -/

/-- A transaction that started in `s`, seen `j` edges later in phase `ph` with the timer at `n`: E is high during PULSE
only, the word is logged once PULSE is over, and every other register is as it was (R110). -/
def State.transactionAt (s : State) (j : Nat) (ph : Phase) (n : Nat) : State :=
  { s with
    eQ := decide (s.params.tSetup ≤ j ∧ j < s.params.tSetup + s.params.tHold)
    log := if j < s.params.tSetup + s.params.tHold then s.log else s.log ++ [latchedEvent s.busWord]
    phase := ph, timer := n }

section
variable {rs : List Request} {j n : Nat} {ph : Phase}

theorem transactionAt_setup (he : s.eQ = false) (hj : j < s.params.tSetup) :
    s.transactionAt j ph n = { s with phase := ph, timer := n } := by
  have hlog : j < s.params.tSetup + s.params.tHold := by omega
  simp [State.transactionAt, he, hlog, hj]

theorem transactionAt_pulse (hj : s.params.tSetup ≤ j) (hj' : j < s.params.tSetup + s.params.tHold) :
    s.transactionAt j ph n = { s with eQ := true, phase := ph, timer := n } := by
  simp [State.transactionAt, hj, hj']

theorem transactionAt_gap (hj : s.params.tSetup + s.params.tHold ≤ j) :
    s.transactionAt j ph n =
      { s with eQ := false, log := s.log ++ [latchedEvent s.busWord], phase := ph, timer := n } := by
  simp [State.transactionAt, hj]

theorem run_setup (hl : s.params.Legal) (hp : s.phase = .setup) (ht : s.timer = s.params.tSetup - 1)
    (hh : s.host = rs.map HostMove.request) :
    Sys2Proof.core.run s.params.tSetup s =
      .next { s with eQ := true, phase := .pulse, timer := s.params.tHold - 1 } := by
  obtain ⟨hsetup, -, -⟩ := hl
  rw [run_phase (by simp [hp]) hh hsetup ht, edge_setup id (s := { s with timer := 0 }) hp, setupEdge_zero rfl]

theorem run_pulse (hl : s.params.Legal) (hp : s.phase = .pulse) (ht : s.timer = s.params.tHold - 1)
    (hh : s.host = rs.map HostMove.request) :
    Sys2Proof.core.run s.params.tHold s =
      .next { s with
        eQ := false, log := s.log ++ [latchedEvent s.busWord], phase := .gap, timer := s.params.tGap - 1 } := by
  obtain ⟨-, hhold, -⟩ := hl
  rw [run_phase (by simp [hp]) hh hhold ht, edge_pulse id (s := { s with timer := 0 }) hp, pulseEdge_zero rfl]
  rfl

/-- R110 before the last edge of a transaction: whole phases, and in the phase reached the timer counting down. -/
theorem run_within_transaction (hl : s.params.Legal) (hp : s.phase = .setup) (ht : s.timer = s.params.tSetup - 1)
    (hh : s.host = rs.map HostMove.request) (he : s.eQ = false) (hj : j < s.params.length) :
    ∃ ph n, ph ≠ .idle ∧ Sys2Proof.core.run j s = .next (s.transactionAt j ph n) := by
  have toPulse := run_setup hl hp ht hh
  have toGap := (run_add _ s.params.tHold toPulse).trans
    (run_pulse (s := { s with eQ := true, phase := .pulse, timer := s.params.tHold - 1 }) hl rfl rfl hh)
  unfold Params.length at hj
  rcases Nat.lt_or_ge j s.params.tSetup with hsetup | hsetup
  · refine ⟨.setup, s.timer - j, nofun, ?_⟩
    rw [transactionAt_setup he hsetup, run_countDown (by simp [hp]) hh j (by omega), hp]
  rcases Nat.lt_or_ge j (s.params.tSetup + s.params.tHold) with hhold | hhold
  · obtain ⟨m, rfl⟩ := Nat.exists_eq_add_of_le hsetup
    refine ⟨.pulse, s.params.tHold - 1 - m, nofun, ?_⟩
    rw [transactionAt_pulse hsetup hhold, run_add _ m toPulse]
    exact run_countDown (s := { s with eQ := true, phase := .pulse, timer := s.params.tHold - 1 }) nofun hh m
      (Nat.le_sub_one_of_lt (Nat.lt_of_add_lt_add_left hhold))
  · obtain ⟨m, rfl⟩ := Nat.exists_eq_add_of_le hhold
    refine ⟨.gap, s.params.tGap - 1 - m, nofun, ?_⟩
    rw [transactionAt_gap hhold, run_add _ m toGap]
    exact run_countDown (s := { s.gapOver with timer := s.params.tGap - 1 }) nofun hh m
      (Nat.le_sub_one_of_lt (Nat.lt_of_add_lt_add_left hj))

/-- R110 outside INIT: after `L` edges, and not before, the block is IDLE. -/
theorem run_single_transaction (hl : s.params.Legal) (hp : s.phase = .setup)
    (ht : s.timer = s.params.tSetup - 1) (hh : s.host = rs.map HostMove.request) (he : s.eQ = false)
    (ha : s.seqActive = false) (hk : s.seqIdx = 0) (hj : j ≤ s.params.length) :
    ∃ ph n, (ph = .idle ↔ j = s.params.length) ∧ Sys2Proof.core.run j s = .next (s.transactionAt j ph n) := by
  rcases Nat.lt_or_eq_of_le hj with hlt | rfl
  · obtain ⟨ph, n, hbusy, hrun⟩ := run_within_transaction hl hp ht hh he hlt
    exact ⟨ph, n, by simp [hbusy, hlt.ne], hrun⟩
  · refine ⟨.idle, 0, by simp, ?_⟩
    have hend : s.gapOver.gapEnd = s.transactionAt s.params.length .idle 0 := by
      rw [transactionAt_gap (j := s.params.length) (Nat.le_add_right _ _), gapEnd_last (s := s.gapOver) (.inl ha)]
      simp [State.gapOver, ha, hk]
    rw [run_transaction hl hp ht hh, hend]

end

/-! ## The timeline of INIT -/

/-- An INIT accepted in `s`, at the start of its step `k`: the words before the `k`-th are logged (R163, R164). -/
def State.initStep (s : State) (k : Fin 4) : State :=
  { s with
    rsQ := (initWord k).rs, eQ := false, dQ := (initWord k).byte, phase := .setup
    timer := s.params.tSetup - 1, seqActive := true, seqIdx := k, errCode := errOk
    log := s.log ++ (Decoded.initSeq.words.take k).map latchedEvent }

@[simp] theorem initStep_log (s : State) (k : Fin 4) :
    (s.initStep k).log = s.log ++ (Decoded.initSeq.words.take k).map latchedEvent := rfl

@[simp] theorem initStep_busWord (s : State) (k : Fin 4) : (s.initStep k).busWord = initWord k := rfl

theorem initSeq_words_take_succ (k : Fin 4) :
    Decoded.initSeq.words.take (k + 1) = Decoded.initSeq.words.take k ++ [initWord k] := by
  revert k
  decide

/-- The word of step `k` joins those logged before it. -/
theorem initStep_log_latched (s : State) (k : Fin 4) :
    (s.initStep k).log ++ [latchedEvent (initWord k)] =
      s.log ++ (Decoded.initSeq.words.take (k + 1)).map latchedEvent := by
  simp [initSeq_words_take_succ]

theorem accept_initSeq_eq_initStep (he : s.eQ = false) : s.accept .initSeq = s.initStep 0 := by
  simp [accept_initSeq, State.initStep, initWord, he]

/-- In step `k` the first `k` words are logged, and from the end of its pulse on the `k`-th as well. -/
theorem initStep_transactionAt_log (s : State) (k : Fin 4) (j : Nat) (ph : Phase) (n : Nat) :
    ((s.initStep k).transactionAt j ph n).log = s.log ++ (Decoded.initSeq.words.take
      (if j < s.params.tSetup + s.params.tHold then k.val else k.val + 1)).map latchedEvent := by
  by_cases hlogged : j < s.params.tSetup + s.params.tHold
  · rw [if_pos hlogged]
    exact if_pos hlogged
  · rw [if_neg hlogged, ← initStep_log_latched]
    exact if_neg hlogged

/-- R104: the end of each step but the last is the start of the next. -/
theorem initStep_gapEnd (s : State) (i : Fin 3) : (s.initStep i.castSucc).gapOver.gapEnd = s.initStep i.succ := by
  have hlog := initStep_log_latched s i.castSucc
  have h3 : i.castSucc ≠ 3 := (Fin.castSucc_lt_last i).ne
  rw [gapEnd_next (s := (s.initStep i.castSucc).gapOver) rfl h3]
  simp only [State.gapOver, initStep_busWord, hlog]
  simp [State.initStep]

section
variable {rs : List Request}

/-- R106, R163: INIT presented in IDLE starts its step 0. -/
theorem step_init {r : Request} (he : s.eQ = false) (hi : s.phase = .idle)
    (hh : s.host = (r :: rs).map HostMove.request) (hop : r.op = 0xA) :
    step s = .next ((s.setHost (rs.map HostMove.request)).initStep 0) := by
  rw [step_accept hi hh (by rw [decodeRequest_of_initOp hop, exec_init, present_idle _ hi]),
    accept_initSeq_eq_initStep he]
  rfl

/-- R164: step `k` of INIT starts `k * L` edges after the first. -/
theorem run_to_initStep (hl : s.params.Legal) (hh : s.host = rs.map HostMove.request) (k : Fin 4) :
    Sys2Proof.core.run (k.val * s.params.length) (s.initStep 0) = .next (s.initStep k) := by
  induction k using Fin.induction with
  | zero => simp [run_zero]
  | succ i ih =>
    have hnext : Sys2Proof.core.run s.params.length (s.initStep i.castSucc) = .next (s.initStep i.succ) := by
      rw [← initStep_gapEnd]
      exact run_transaction (s := s.initStep i.castSucc) hl rfl rfl hh
    rw [Fin.val_succ, Nat.succ_mul, ← Fin.val_castSucc, run_add _ _ ih, hnext]

/-- R110, R164: `j` edges into step `k`. -/
theorem run_within_initStep (hl : s.params.Legal) (hh : s.host = rs.map HostMove.request) (k : Fin 4) {j : Nat}
    (hj : j < s.params.length) :
    ∃ ph n, ph ≠ .idle ∧ Sys2Proof.core.run (k.val * s.params.length + j) (s.initStep 0) =
      .next ((s.initStep k).transactionAt j ph n) := by
  obtain ⟨ph, n, hbusy, hrun⟩ := run_within_transaction (s := s.initStep k) hl rfl rfl hh rfl hj
  exact ⟨ph, n, hbusy, (run_add _ j (run_to_initStep hl hh k)).trans hrun⟩

/-- R164: the last step ends in IDLE, with the four words logged. -/
theorem run_init (hl : s.params.Legal) (hh : s.host = rs.map HostMove.request) :
    Sys2Proof.core.run (4 * s.params.length) (s.initStep 0) =
      .next { (s.initStep 3).gapOver with phase := .idle, seqActive := false, seqIdx := 0 } := by
  have hlast : Sys2Proof.core.run s.params.length (s.initStep 3) = .next (s.initStep 3).gapOver.gapEnd :=
    run_transaction (s := s.initStep 3) hl rfl rfl hh
  rw [gapEnd_last (.inr rfl)] at hlast
  rw [Nat.succ_mul 3]
  exact (run_add _ _ (run_to_initStep hl hh 3)).trans hlast

end

end Sys2Proof.Machine

namespace Sys2Proof

open Machine

/-- Settles O36: a bit of a number is the parity of a quotient. -/
theorem setBusDrivesEachLine : Obligations.SetBusDrivesEachLine := by
  intro s v
  exact ⟨fun i => Nat.testBit_eq_decide_div_mod_eq, rfl⟩

/-- Settles O8: in IDLE both are accepted as one word. -/
theorem rawTransfersStartTransaction : Obligations.RawTransfersStartTransaction := by
  intro s flags arg hi
  rw [exec_sendCmd, exec_sendData, present_idle _ hi, present_idle _ hi, accept_word, accept_word]
  exact ⟨rfl, rfl⟩

/-- Settles O15: in IDLE it is accepted as the sequence. -/
theorem initStartsSequence : Obligations.InitStartsSequence := by
  intro s flags arg hi
  rw [exec_init, present_idle _ hi, accept_initSeq]
  rfl

/-- Settles O20: both edges only carry the phase on. -/
theorem busyRequestsAreNotTaken : Obligations.BusyRequestsAreNotTaken := by
  intro s i hreq hb
  obtain ⟨o, -, hexec⟩ := exec_req i hreq
  rw [hexec, present_busy o hb, clockEdge_not_accepted (p := Ports.quiet) rfl fun ⟨hi, _⟩ => hb hi]

/-- Settles O21: the word the instruction starts is the one it carries. -/
theorem busWordsStartTransaction : Obligations.BusWordsStartTransaction := by
  intro s i w hbus hw hdue
  obtain ⟨v, hexec, hv⟩ := exec_bus_word i hbus
  obtain rfl : v = w := List.singleton_inj.mp (hv.symm.trans hw)
  rw [hexec, startWord_free v hdue, emit_eq]

/-- Settles O28: the step of a held request, whose instruction is the one its word decodes to. -/
theorem stepRunsPresentedInstruction : Obligations.StepRunsPresentedInstruction := by
  intro s w i rest hdec hh
  obtain rfl : decodeRequest (Request.ofWord w) = i := Except.ok.inj hdec
  obtain ⟨o, -, hexec⟩ := exec_decodeRequest (Request.ofWord w)
  exact ⟨s.present o, hexec s, step_request hh (hexec s)⟩

/-- Settles O31, by the phases: without an acceptance the edge is that of the phase. -/
theorem phasesAdvance : Obligations.PhasesAdvance := by
  intro s p hr
  have hbusy (hb : s.phase ≠ .idle) : clockEdge p s = .next (s.edge id) :=
    clockEdge_not_accepted hr fun ⟨hi, _⟩ => hb hi
  refine ⟨fun hi hv => ?_, fun hb ht => ?_, fun hp ht => ?_, fun hp ht => ?_, fun hp ht hlast => ?_⟩
  · rw [clockEdge_not_accepted hr (by simp [hv]), edge_idle id hi, id]
  · rw [hbusy hb, edge_pos id hb ht]
  · rw [hbusy (by simp [hp]), edge_setup id hp, setupEdge_zero ht]
  · rw [hbusy (by simp [hp]), edge_pulse id hp, pulseEdge_zero ht]
  · rw [hbusy (by simp [hp]), edge_gap id hp, gapEdge_zero ht, gapEnd_last hlast]

/-- Settles O43: an edge without reset keeps the word on the lines, or keeps E low. -/
theorem busIsStableAroundEnable : Obligations.BusIsStableAroundEnable := by
  intro s t p hinv hr hc
  have hstable : t.busWord = s.busWord ∨ (s.eQ = false ∧ t.eQ = false) := by
    rcases clockEdge_cases hc with ⟨hr', -⟩ | ⟨-, hi, -, o, -, rfl⟩ | ⟨-, -, rfl⟩
    · simp [hr] at hr'
    · have hlow : s.eQ = false := hinv.eQ_eq_false (by simp [hi])
      exact .inr ⟨hlow, (accept_eQ o s).trans hlow⟩
    · exact hinv.edge_bus_stable
  rcases hstable with hword | ⟨hs, ht⟩
  · obtain ⟨hrs, hd⟩ := BusWord.mk.inj hword
    exact ⟨fun _ => ⟨hrs, hd⟩, fun hne => (hne.elim (· hrs) (· hd)).elim⟩
  · exact ⟨fun hne => absurd (ht.trans hs.symm) hne, fun _ => ⟨hs, ht⟩⟩

/-- Settles O49: moves whose pseudo-operations are well formed all fit. -/
theorem stepCompletes : Obligations.StepCompletes := by
  intro s hchar hstring
  refine step_next_of_fits fun m hm => ?_
  cases m with
  | drive p => rfl
  | request r => rfl
  | writeChar c => exact hchar c hm
  | writeString cs => exact hstring cs hm

/-- Settles O50: the accepted word's transaction, seen `j` edges later. -/
theorem singleTransactionTimeline : Obligations.SingleTransactionTimeline := by
  intro s r rs w j hinv hl hi hh hw hj
  have hinactive := hinv.inactive_of_idle hi
  have hlow : s.eQ = false := hinv.eQ_eq_false (by simp [hi])
  have hstep : step s = .next ((s.accept (.word w)).setHost (rs.map HostMove.request)) :=
    step_accept hi hh (by rw [exec_single_word (decodeRequest_format r) hw, present_idle _ hi])
  obtain ⟨ph, n, hidle, hrun⟩ :=
    run_single_transaction (s := (s.accept (.word w)).setHost (rs.map HostMove.request)) hl rfl rfl rfl hlow
      hinactive (hinv.idx_of_inactive hinactive) hj
  exact ⟨_, (run_add 1 j (run_one hstep)).trans hrun, rfl, rfl, rfl, rfl, hinactive, rfl, rfl, decide_eq_true_iff,
    rfl, hidle⟩

/-- Settles O51: the acceptance is the start of step 0, each step is one transaction, and the last ends in IDLE. -/
theorem initTimeline : Obligations.InitTimeline := by
  intro s r rs hinv hl hi hh hop
  have hstep := step_init (hinv.eQ_eq_false (by simp [hi])) hi hh hop
  have hend := run_init (s := s.setHost (rs.map HostMove.request)) hl rfl
  refine ⟨fun k j hj => ?_, _, (run_add 1 _ (run_one hstep)).trans hend, rfl, rfl, rfl, rfl, rfl, rfl,
    initStep_log_latched s 3⟩
  obtain ⟨ph, n, hbusy, hrun⟩ := run_within_initStep (s := s.setHost (rs.map HostMove.request)) hl rfl k hj
  exact ⟨_, (run_add 1 _ (run_one hstep)).trans hrun, rfl, rfl, rfl, hbusy, rfl, decide_eq_true_iff,
    initStep_transactionAt_log s k j ph n⟩

end Sys2Proof
end

section
/-! PROOFS. The composed commands in IDLE (`41_commands.md` R131 to R136): each is the acceptance of its one bus word.
The patterns of the statements are the words of `busWords`; that the shifts of R78 assemble the same bytes is in
`exec_req_words`. -/

namespace Sys2Proof.Machine

/-- R106: what accepting a request that sends one bus word does in IDLE. -/
theorem exec_idle_single_word {s : State} {i : Instr} {rs : Bool} {byte : Byte} (hi : s.phase = .idle)
    (hreq : i.format = .req) (hw : busWords i = [⟨rs, byte⟩]) :
    exec i s = .next { s with
      errCode := 0b00, rsQ := rs, dQ := byte, phase := .setup, timer := s.params.tSetup - 1 } := by
  rw [exec_single_word hreq hw, present_idle _ hi, accept_word]
  rfl

end Sys2Proof.Machine

namespace Sys2Proof

open Machine

/-- Settles O9: each sends its selector alone, with no option bits. -/
theorem clearAndHomeStartTransaction : Obligations.ClearAndHomeStartTransaction :=
  fun _ _ _ hi => ⟨exec_idle_single_word hi rfl rfl, exec_idle_single_word hi rfl rfl⟩

/-- Settles O10: ENTRY_MODE sends the one word `000001is`. -/
theorem entryModeStartsTransaction : Obligations.EntryModeStartsTransaction :=
  fun _ _ _ _ _ hi => exec_idle_single_word hi rfl rfl

/-- Settles O11: DISPLAY_CTRL sends the one word `00001dcb`. -/
theorem displayCtrlStartsTransaction : Obligations.DisplayCtrlStartsTransaction :=
  fun _ _ _ _ _ hi => exec_idle_single_word hi rfl rfl

/-- Settles O12: SHIFT sends the one word `0001tr00`. -/
theorem shiftStartsTransaction : Obligations.ShiftStartsTransaction :=
  fun _ _ _ _ _ hi => exec_idle_single_word hi rfl rfl

/-- Settles O13: FUNCTION_SET sends the one word `001wnf00`, whatever `w` is. -/
theorem functionSetStartsTransaction : Obligations.FunctionSetStartsTransaction :=
  fun _ _ _ _ _ hi => exec_idle_single_word hi rfl rfl

end Sys2Proof
end

section
/-! PROOFS. Characters and strings (`42_data_and_sequences.md` R160 to R162): the operands that fit, the request word of
a data byte, the requests the pseudo-operations queue, and the run of a string's requests. -/

namespace Sys2Proof

/-! ## Operands and request words -/

/-- R160: the bytes 0..255 fit. -/
theorem CharOperand.byte_fits {v : Nat} (h : v ≤ 255) : (CharOperand.byte v).fits = true :=
  decide_eq_true ⟨Int.natCast_nonneg v, Int.ofNat_le.mpr h⟩

/-- R161: the characters up to 0xFF fit. -/
theorem CharOperand.char_fits {c : Char} (h : c.toNat ≤ 0xFF) : (CharOperand.char c).fits = true := decide_eq_true h

@[simp] theorem CharOperand.byte_arg (v : Nat) : (CharOperand.byte v).arg = BitVec.ofNat 8 v := BitVec.ofInt_natCast 8 v

@[simp] theorem CharOperand.char_arg (c : Char) : (CharOperand.char c).arg = BitVec.ofNat 8 c.toNat := rfl

/-- R70, R71: opcode 1 and no flags put 0x0800 above the data byte. -/
theorem sendDataRequest_word {v : Nat} (h : v ≤ 255) :
    (sendDataRequest (BitVec.ofNat 8 v)).word = 0x0800 ||| BitVec.ofNat 15 v := by
  have h8 : v % 2 ^ 8 = v := Nat.mod_eq_of_lt (by omega)
  have h15 : v % 2 ^ 15 = v := Nat.mod_eq_of_lt (by omega)
  apply BitVec.eq_of_toNat_eq
  simp only [Request.word, sendDataRequest, BitVec.toNat_append, BitVec.toNat_or, BitVec.toNat_ofNat, h8, h15]
  rfl

@[simp] theorem decodeRequest_sendDataRequest (b : Byte) : decodeRequest (sendDataRequest b) = .sendData 0 b := rfl

/-- Settles O3: each operand is encoded as the word of its data request, which decodes to SEND_DATA. -/
theorem pseudoOperationsEncodeToSendData : Obligations.PseudoOperationsEncodeToSendData := by
  refine ⟨fun v hv => ⟨?_, ?_⟩, fun c hc => ?_, fun s hs => ?_⟩
  · rw [encode, CharOperand.byte_arg, sendDataRequest_word hv]
  · rw [← sendDataRequest_word hv, decode_request_word, decodeRequest_sendDataRequest]
  · rw [encode, CharOperand.char_arg, sendDataRequest_word hc]
  · exact List.map_congr_left fun c hc => by rw [CharOperand.char_arg, sendDataRequest_word (hs c hc)]

end Sys2Proof

namespace Sys2Proof.Machine

variable {s t : State}

/-! ## The requests of a pseudo-operation -/

/-- R84: the host takes up the one request of an operand that fits. -/
theorem exec_writeChar_of_fits {c : CharOperand} (h : c.fits = true) (s : State) :
    exec (.writeChar c) s = .next (s.queueRequests [sendDataRequest c.arg]) := by
  simp only [exec, execWriteChar, charRequest_of_fits h]

/-- The requests of a string: one for each character, in order (R162). -/
def dataRequests (cs : List Char) : List Request := cs.map fun c => sendDataRequest (CharOperand.char c).arg

theorem stringRequests_eq_dataRequests {cs : List Char} (h : ∀ c ∈ cs, c.toNat ≤ 0xFF) :
    stringRequests cs = .ok (dataRequests cs) :=
  stringRequests_of_fits fun c hc => CharOperand.char_fits (h c hc)

/-- R162: the host takes up the requests of a string that fits. -/
theorem exec_writeString_of_fits {cs : List Char} (h : ∀ c ∈ cs, c.toNat ≤ 0xFF) (s : State) :
    exec (.writeString cs) s = .next (s.queueRequests (dataRequests cs)) := by
  simp only [exec, execWriteString, stringRequests_eq_dataRequests h]

/-! ## The run of a string -/

/-- R230: a data request takes the edge that accepts it and one transaction. -/
theorem dataRequests_cycles (l : Nat) (cs : List Char) :
    ((dataRequests cs).map fun r => 1 + l * (busWords (decodeRequest r)).length).sum = cs.length * (l + 1) := by
  simp [dataRequests, busWords, Function.comp_def, Nat.add_comm]

/-- R109: a data request sends its byte with RS high. -/
theorem dataRequests_events (cs : List Char) :
    ((dataRequests cs).flatMap fun r => (busWords (decodeRequest r)).map latchedEvent) =
      cs.map fun c => .latched true (BitVec.ofNat 8 c.toNat) := by
  simp [dataRequests, List.flatMap_map, busWords, latchedEvent, ← List.map_eq_flatMap]

/-- Runs of at least one step agree where the first steps do. -/
theorem run_eq_of_step_eq (h : step s = step t) {k : Nat} (hk : k ≠ 0) :
    Sys2Proof.core.run k s = Sys2Proof.core.run k t := by
  have h' : Sys2Proof.core.step s = Sys2Proof.core.step t := h
  cases k with
  | zero => exact absurd rfl hk
  | succ k => simp only [Host.Core.run, h']

/-- R84: the first step of WRITE_STRING expands it, so a run of at least one step is that of its requests. -/
theorem run_writeString {cs : List Char} {rest : List HostMove} (hh : s.host = .writeString cs :: rest)
    (hc : ∀ c ∈ cs, c.toNat ≤ 0xFF) {k : Nat} (hk : k ≠ 0) :
    Sys2Proof.core.run k s =
      Sys2Proof.core.run k (s.setHost ((dataRequests cs).map HostMove.request ++ rest)) := by
  have hdriven := drivenBy_writeString (stringRequests_eq_dataRequests hc) rest
  exact run_eq_of_step_eq (step_of_drivenBy (by rw [hh, hdriven])) hk

end Sys2Proof.Machine

namespace Sys2Proof

open Machine

/-- Settles O23: both operands fit, and the request queued carries the byte or the code point. -/
theorem writeCharQueuesSendData : Obligations.WriteCharQueuesSendData := by
  intro s
  refine ⟨fun v hv => ?_, fun c hc => ?_⟩
  · rw [exec_writeChar_of_fits (CharOperand.byte_fits hv), CharOperand.byte_arg]
    rfl
  · rw [exec_writeChar_of_fits (CharOperand.char_fits hc), CharOperand.char_arg]
    rfl

/-- Settles O24: the requests queued are those of the characters. -/
theorem writeStringQueuesSendData : Obligations.WriteStringQueuesSendData := by
  intro s cs hc
  rw [exec_writeString_of_fits hc, State.queueRequests, dataRequests, List.map_map]
  rfl

/-- Settles O53: the empty string takes no edge, and any other runs as its data requests, in acceptance order. -/
theorem writeStringLatchesItsCharacters : Obligations.WriteStringLatchesItsCharacters := by
  intro s cs hinv hl hi hh hc
  obtain ⟨u, hrun, hidle, -, -, hlog, -⟩ :=
    requestsRunInAcceptanceOrder (s.setHost ((dataRequests cs).map HostMove.request)) (dataRequests cs)
      (hinv.setHost _) hl hi rfl
  rw [dataRequests_cycles] at hrun
  rw [dataRequests_events] at hlog
  cases cs with
  | nil => exact ⟨s, by rw [List.length_nil, Nat.zero_mul, run_zero], hi, (List.append_nil _).symm⟩
  | cons c cs =>
    refine ⟨u, ?_, hidle, hlog⟩
    rw [run_writeString hh hc (by simp), List.append_nil]
    exact hrun

end Sys2Proof
end

section
/-! PROOFS. Errors (`60_exceptions.md` R201 to R204): what raising an error does in IDLE, and the code every accepted
request writes. An error code and a transaction exclude each other (R210), so the phase after acceptance ties the code
to the bus words. -/

namespace Sys2Proof.Machine

variable {s : State} {o : Decoded}

/-! ## Raising an error -/

/-- R201: in IDLE a request that asks for an error writes the code and the sticky bit, and nothing else. -/
theorem exec_idle_error {i : Instr} {code : BitVec 2} (hi : s.phase = .idle)
    (he : exec i s = .next (s.present (.error code))) :
    exec i s = .next { s with errCode := code, errSticky := true } := by
  rw [he, present_idle _ hi, accept_error]

/-! ## The code an accepted request writes -/

/-- Acceptance leaves IDLE exactly where there are words to send (R106). -/
theorem accept_phase_ne_idle_iff (hi : s.phase = .idle) (o : Decoded) : (s.accept o).phase ≠ .idle ↔ o.words ≠ [] := by
  cases o with
  | word w => simp [accept_word, Decoded.words]
  | initSeq => simp [accept_initSeq, Decoded.words]
  | error c => simp [accept_error, Decoded.words, hi]

/-- R204, R210: acceptance writes OK exactly where it starts a transaction. -/
theorem accept_errCode_eq_errOk_iff (hi : s.phase = .idle) (ho : o.Legal) :
    (s.accept o).errCode = errOk ↔ (s.accept o).phase ≠ .idle := by
  cases o with
  | word w => simp [accept_word]
  | initSeq => simp [accept_initSeq]
  | error c =>
    have hc : c ≠ errOk := by rcases ho with rfl | rfl <;> decide
    simp [accept_error, hi, hc]

/-- R204: acceptance never writes 0b11. -/
theorem accept_errCode_ne_three (ho : o.Legal) (s : State) : (s.accept o).errCode ≠ 0b11 := by
  cases o with
  | word w => simp [accept_word, errOk]
  | initSeq => simp [accept_initSeq, errOk]
  | error c =>
    have hc : c ≠ 0b11 := by rcases ho with rfl | rfl <;> decide
    simpa [accept_error] using hc

/-- R204: where acceptance writes OK, the sticky bit stays. -/
theorem accept_errSticky_of_errOk (ho : o.Legal) (h : (s.accept o).errCode = errOk) :
    (s.accept o).errSticky = s.errSticky :=
  Bool.eq_iff_iff.mpr (by simp [accept_errSticky_iff ho, h])

/-- R106, R204: a request in IDLE is accepted as something legal, with OK exactly where it has bus words. -/
theorem exec_idle_req {i : Instr} (h : i.format = .req) (hi : s.phase = .idle) :
    ∃ o : Decoded, o.Legal ∧ exec i s = .next (s.accept o) ∧ ((s.accept o).errCode = errOk ↔ busWords i ≠ []) := by
  obtain ⟨o, ho, hexec⟩ := exec_req i h
  obtain ⟨o', hexec', hwords⟩ := exec_req_words i h
  have haccept : exec i s = .next (s.accept o) := by rw [hexec, present_idle o hi]
  have hsame : s.accept o = s.accept o' := by
    rw [hexec', present_idle o' hi, Host.Outcome.next.injEq] at haccept
    exact haccept.symm
  refine ⟨o, ho, haccept, ?_⟩
  rw [accept_errCode_eq_errOk_iff hi ho, hsame, accept_phase_ne_idle_iff hi, hwords]

end Sys2Proof.Machine

namespace Sys2Proof

open Machine

/-- Settles O18: the code is read off what the request is accepted as. -/
theorem acceptedRequestsWriteTheirCode : Obligations.AcceptedRequestsWriteTheirCode := by
  intro s i hreq hi
  obtain ⟨o, ho, hexec, hok⟩ := exec_idle_req hreq hi
  exact ⟨s.accept o, hexec, hok, accept_errCode_ne_three ho s, fun hc => (accept_errSticky_iff ho s).mpr (.inr hc),
    accept_errSticky_of_errOk ho⟩

/-- Settles O16: both reads ask for the error UNSUPPORTED. -/
theorem readsRaiseUnsupported : Obligations.ReadsRaiseUnsupported :=
  fun _ _ _ hi => ⟨rfl, exec_idle_error hi rfl, rfl, exec_idle_error hi rfl⟩

/-- Settles O17: the three reserved opcodes ask for the error RESERVED. -/
theorem reservedOpcodesRaiseReserved : Obligations.ReservedOpcodesRaiseReserved :=
  fun _ _ _ hi => ⟨rfl, exec_idle_error hi rfl, rfl, exec_idle_error hi rfl, rfl, exec_idle_error hi rfl⟩

end Sys2Proof
end

section
/-! PROOFS. Reset and hazards (`70_reset_and_hazards.md`): the reset edge (R220 to R222), the 4-bit hazard of the log
(R227), and the boot order of a host that presents requests (R224). -/

namespace Sys2Proof.Machine

variable {s : State}

/-! ## The reset edge -/

/-- R221: a second reset edge finds every register at its reset value and E low. -/
theorem resetEdge_resetEdge (s : State) : s.resetEdge.resetEdge = s.resetEdge := rfl

/-- R222: outside PULSE no pulse is cut short. -/
theorem Inv.resetEdge_log_of_ne_pulse (h : Inv s) (hp : s.phase ≠ .pulse) : s.resetEdge.log = s.log := by
  simp [h.eQ_eq_false hp]

/-- R222: in PULSE the truncated pulse has been high for `T_HOLD - timer` cycles. -/
theorem Inv.resetEdge_log_of_pulse (h : Inv s) (hp : s.phase = .pulse) :
    s.resetEdge.log = s.log ++ [.truncated s.rsQ s.dQ (s.params.tHold - s.timer)] := by
  simp [h.enable_iff_pulse.mpr hp]

/-! ## The 4-bit hazard -/

/-- The FUNCTION-SET bytes with D4 = 0 (R74, R76). -/
theorem fourBit_command_iff : ∀ b : Byte, fourBit ⟨false, b⟩ = true ↔ 0x20 ≤ b.toNat ∧ b.toNat ≤ 0x2F := by decide

theorem fourBit_iff {w : BusWord} :
    fourBit w = true ↔ w.rs = false ∧ 0x20 ≤ w.byte.toNat ∧ w.byte.toNat ≤ 0x2F := by
  obtain ⟨rs, b⟩ := w
  cases rs with
  | false => simpa using fourBit_command_iff b
  | true => simp [fourBit]

/-- The word an event carries, latched or cut short. -/
def Event.word : Event → BusWord
  | .latched rs byte => ⟨rs, byte⟩
  | .truncated rs byte _ => ⟨rs, byte⟩

theorem Event.word_eq_iff {e : Event} {w : BusWord} :
    e.word = w ↔ e = .latched w.rs w.byte ∨ ∃ n, e = .truncated w.rs w.byte n := by
  obtain ⟨rs, b⟩ := w
  cases e <;> simp [Event.word]

/-- R222, R227: of the draws of an event only its own word can be a 4-bit FUNCTION-SET; the reset word is none. -/
theorem Event.receipts_all_not_fourBit (e : Event) :
    e.receipts.all (fun w => !(w.any fourBit)) = !fourBit e.word := by
  have hreset : fourBit ⟨false, 0#8⟩ = false := by decide
  cases e <;> simp [Event.receipts, Event.word, hreset]

theorem eightBitThroughout_eq_false_iff {l : List Event} :
    eightBitThroughout l = false ↔ ∃ e ∈ l, fourBit e.word = true := by
  simp only [eightBitThroughout, Event.receipts_all_not_fourBit]
  simp

/-! ## What the request port does -/

/-- What the host drives now decides the event of this edge and the moves left for the next. -/
theorem portEvents_of_driven {d : Driven} (k : Nat) (hd : drivenBy s.host = .ok d) :
    ∃ t, t.host = d.left s ∧ portEvents (k + 1) s = d.ports.event s :: portEvents k t := by
  obtain ⟨u, hu⟩ := clockEdge_next d.ports s
  have hstep : step s = .next (u.setHost (d.left s)) := by simp only [step, hostedEdge, hd, hu, withHost_next]
  exact ⟨u.setHost (d.left s), rfl, portEvents_succ k hd hstep⟩

/-- A host that presents requests lets go of the first exactly where the edge accepts it (R106, R112). -/
theorem portEvents_request {r : Request} {rest : List HostMove} (k : Nat) (hh : s.host = .request r :: rest) :
    ∃ t, (s.phase = .idle ∧ t.host = rest ∧ portEvents (k + 1) s = .accepted r :: portEvents k t) ∨
      (s.phase ≠ .idle ∧ t.host = s.host ∧ portEvents (k + 1) s = .nothing :: portEvents k t) := by
  obtain ⟨t, ht, hev⟩ := portEvents_of_driven k (d := Driven.requests r [] rest) (by rw [hh, drivenBy])
  have hports : (Driven.requests r [] rest).ports = Ports.presenting r := rfl
  rw [left_presenting] at ht
  rw [hports, event_presenting] at hev
  refine ⟨t, ?_⟩
  by_cases hi : s.phase = .idle
  · exact .inl ⟨hi, by simpa [hi] using ht, by simpa [hi] using hev⟩
  · exact .inr ⟨hi, by simpa [hi, hh] using ht, by simpa [hi] using hev⟩

/-- Moves that drive the same have the same effect on the request port. -/
theorem portEvents_of_drivenBy {moves : List HostMove} (k : Nat) (h : drivenBy s.host = drivenBy moves) :
    portEvents k s = portEvents k (s.setHost moves) := by
  cases k with
  | zero => rfl
  | succ k =>
    simp only [portEvents, State.setHost_host, h, step_of_drivenBy h]
    rfl

/-! ## The boot order along a list of requests -/

/-- The boot progress after these requests have been accepted; `none` where one of them breaks the order. -/
def BootProgress.acceptAll (own : List Request → Bool) (b : BootProgress) (rs : List Request) : Option BootProgress :=
  rs.foldlM (fun b r => b.accept own r) b

section
variable {own : List Request → Bool} {b b' : BootProgress} {r : Request} {rs cs : List Request}

theorem BootProgress.acceptAll_cons (h : b.accept own r = some b') :
    b.acceptAll own (r :: rs) = b'.acceptAll own rs := by
  simp [BootProgress.acceptAll, h]

/-- A host that presents requests keeps the boot order if they keep it once all of them are accepted: how many have been
accepted by the `k`-th edge does not matter. -/
theorem bootOrderFrom_of_acceptAll (k : Nat) (hh : s.host = rs.map HostMove.request)
    (h : (b.acceptAll own rs).isSome = true) : bootOrderFrom own b (portEvents k s) = true := by
  induction k generalizing s rs b with
  | zero => rfl
  | succ k ih =>
    cases rs with
    | nil =>
      obtain ⟨t, ht, hev⟩ := portEvents_of_driven k (s := s) (by rw [hh, List.map_nil, drivenBy])
      rw [hev, event_quiet, bootOrderFrom]
      exact ih (by simpa [Driven.left] using ht) h
    | cons r rs =>
      obtain ⟨t, ⟨-, ht, hev⟩ | ⟨-, ht, hev⟩⟩ := portEvents_request k hh <;> rw [hev, bootOrderFrom]
      · cases hb : b.accept own r with
        | none => simp [BootProgress.acceptAll, hb] at h
        | some b' => exact ih ht (BootProgress.acceptAll_cons hb ▸ h)
      · exact ih (ht.trans hh) h

theorem BootProgress.accept_init (hr : b.reset = true) (hop : r.op = 0xA) :
    b.accept own r = some { b with configured := true } := by
  simp [BootProgress.accept, needsConfiguration, hr, hop]

/-- R224: a composed request of the own sequence is recorded, and configures if it completes that sequence. -/
theorem BootProgress.accept_configures (hr : b.reset = true) (hc : configures r = true) :
    ∃ b', b.accept own r = some b' ∧ b'.reset = true ∧ b'.sent = b.sent ++ [r] ∧
      (b.configured = true ∨ own (b.sent ++ [r]) = true → b'.configured = true) := by
  have hop : ∀ op : BitVec 4, (decide (0x2 ≤ op) && decide (op ≤ 0x7)) = true →
      (decide (op = 0x1) || decide (op = 0x8) || decide (op = 0x9)) = false ∧ op ≠ 0xA#4 := by decide
  obtain ⟨hneeds, hinit⟩ : needsConfiguration r = false ∧ r.op ≠ 0xA#4 := hop r.op hc
  refine ⟨{ b with sent := b.sent ++ [r], configured := b.configured || own (b.sent ++ [r]) }, ?_, hr, rfl, ?_⟩
  · simp [BootProgress.accept, hneeds, hinit, hr, hc]
  · exact (Bool.or_eq_true _ _).mpr

/-- R224: once the controller is configured, no request breaks the order, and none undoes the configuration. -/
theorem BootProgress.accept_of_configured (hr : b.reset = true) (hc : b.configured = true) (r : Request) :
    ∃ b', b.accept own r = some b' ∧ b'.reset = true ∧ b'.configured = true := by
  by_cases hneeds : needsConfiguration r = true
  · exact ⟨b, by simp [BootProgress.accept, hr, hneeds, hc], hr, hc⟩
  by_cases hop : r.op = 0xA#4
  · exact ⟨_, BootProgress.accept_init hr hop, hr, rfl⟩
  by_cases hcomposed : configures r = true
  · obtain ⟨b', hb, hr', -, hconf⟩ := BootProgress.accept_configures (own := own) hr hcomposed
    exact ⟨b', hb, hr', hconf (.inl hc)⟩
  · exact ⟨b, by simp [BootProgress.accept, hr, hneeds, hop, hcomposed], hr, hc⟩

/-- R224: data and address requests come only after the configuration. -/
theorem BootProgress.accept_needsConfiguration (hn : needsConfiguration r = true) (hc : b.configured = false) :
    b.accept own r = none := by
  simp [BootProgress.accept, hn, hc]

theorem BootProgress.acceptAll_of_configured (hr : b.reset = true) (hc : b.configured = true) (rs : List Request) :
    (b.acceptAll own rs).isSome = true := by
  induction rs generalizing b with
  | nil => rfl
  | cons r rs ih =>
    obtain ⟨b', hb, hr', hc'⟩ := BootProgress.accept_of_configured (own := own) hr hc r
    rw [BootProgress.acceptAll_cons hb]
    exact ih hr' hc'

/-- R224: the own sequence configures with its last request at the latest, after which every request keeps the order. -/
theorem BootProgress.acceptAll_of_own (hr : b.reset = true) (hne : cs ≠ []) (hcs : ∀ c ∈ cs, configures c = true)
    (hown : own (b.sent ++ cs) = true) (rs : List Request) : (b.acceptAll own (cs ++ rs)).isSome = true := by
  induction cs generalizing b with
  | nil => exact absurd rfl hne
  | cons c cs ih =>
    rw [List.forall_mem_cons] at hcs
    obtain ⟨hc, hcs⟩ := hcs
    obtain ⟨b', hb, hr', hsent, hconf⟩ := BootProgress.accept_configures (own := own) hr hc
    rw [List.cons_append, BootProgress.acceptAll_cons hb]
    by_cases hlast : cs = []
    · subst hlast
      exact BootProgress.acceptAll_of_configured hr' (hconf (.inr hown)) rs
    · exact ih hr' hlast hcs (by rwa [hsent, List.append_assoc])

end

end Sys2Proof.Machine

namespace Sys2Proof

open Machine

/-- Settles O34: E is high in PULSE only, and there the timer is below `T_HOLD`. -/
theorem resetMidTransactionByPhase : Obligations.ResetMidTransactionByPhase := by
  intro s p hinv hl hr
  refine ⟨s.resetEdge, clockEdge_reset hr, rfl, rfl, hinv.resetEdge_log_of_ne_pulse, fun hp => ?_⟩
  have htimer := hinv.pulse_timer hp
  obtain ⟨-, hhold, -⟩ := hl
  exact ⟨s.params.tHold - s.timer, by omega, by omega, by omega, hinv.resetEdge_log_of_pulse hp⟩

/-- Settles O55: only an event's own word counts, and it counts exactly as a FUNCTION-SET with D4 = 0. -/
theorem fourBitModeIsNeverForgotten : Obligations.FourBitModeIsNeverForgotten := by
  intro l
  rw [eightBitThroughout_eq_false_iff]
  constructor
  · rintro ⟨e, he, hw⟩
    obtain ⟨hrs, hlo, hhi⟩ := fourBit_iff.mp hw
    refine ⟨e.word.byte, hlo, hhi, ?_⟩
    rw [← hrs]
    rcases Event.word_eq_iff.mp (rfl : e.word = e.word) with heq | ⟨n, heq⟩
    · exact .inl (heq ▸ he)
    · exact .inr ⟨n, heq ▸ he⟩
  · rintro ⟨b, hlo, hhi, hmem | ⟨n, hmem⟩⟩
    all_goals exact ⟨_, hmem, fourBit_iff.mpr ⟨rfl, hlo, hhi⟩⟩

/-- Settles O56: INIT, or the own sequence, configures before any request that needs it; a data or address request
accepted first breaks the order at the first edge; the empty string drives what the moves after it drive. -/
theorem bootOrderAsksForConfiguration : Obligations.BootOrderAsksForConfiguration := by
  intro own s
  refine ⟨fun r rs hop hh k => ?_, fun cs rs hne hcs hown hh k => ?_, fun r rest hop hi hh hboot => ?_,
    fun rest hh => forall_congr' fun k => ?_⟩
  · refine bootOrderFrom_of_acceptAll k hh ?_
    rw [BootProgress.acceptAll_cons (BootProgress.accept_init rfl hop)]
    exact BootProgress.acceptAll_of_configured rfl rfl rs
  · have hconf : ∀ c ∈ cs, configures c = true := by simpa [configures, BitVec.le_def] using hcs
    exact bootOrderFrom_of_acceptAll k hh (BootProgress.acceptAll_of_own rfl hne hconf hown rs)
  · have hneeds : needsConfiguration r = true := by simpa [needsConfiguration, or_assoc] using hop
    obtain ⟨t, ⟨-, -, hev⟩ | ⟨hbusy, -, -⟩⟩ := portEvents_request 0 hh
    · have hfirst := hboot 1
      rw [hev, bootOrderFrom, BootProgress.accept_needsConfiguration hneeds rfl] at hfirst
      cases hfirst
    · exact hbusy hi
  · have hdriven : drivenBy s.host = drivenBy rest := by rw [hh, drivenBy_writeString (cs := []) rfl]; rfl
    rw [portEvents_of_drivenBy k hdriven]
    rfl

/-- Settles O32: the reset edge, field by field, and the output ports it leaves. -/
theorem resetEdgeWritesEveryRegister : Obligations.ResetEdgeWritesEveryRegister := by
  intro s p hr
  exact ⟨s.resetEdge, clockEdge_reset hr, rfl, rfl, rfl, fun i => BitVec.getLsbD_zero, rfl⟩

/-- Settles O33: both edges are reset edges, and the second changes nothing. -/
theorem heldResetChangesNothing : Obligations.HeldResetChangesNothing := by
  intro s t p q hp hq hc
  rw [clockEdge_reset hp, Host.Outcome.next.injEq] at hc
  rw [← hc, clockEdge_reset hq, resetEdge_resetEdge]

end Sys2Proof
end

section
/-! PROOFS. Operands that do not fit (D16, D17, U10): which operand has no request, the first such character of a
string, and the refusal of the pseudo-operation that carries it. -/

namespace Sys2Proof.Machine

/-! ## Operands without a request -/

/-- D16: a byte outside 0..255 is named in its refusal. -/
theorem charRequest_byte_out_of_range {v : Int} (h : v < 0 ∨ 255 < v) :
    charRequest (.byte v) = .error (.byteOutOfRange v) := by
  have hfits : (CharOperand.byte v).fits = false := decide_eq_false (by omega)
  simp [charRequest, charArg, hfits]

/-- D17: a character above 0xFF is named in its refusal. -/
theorem charRequest_char_too_large {c : Char} (h : 0xFF < c.toNat) :
    charRequest (.char c) = .error (.codePointTooLarge c) := by
  have hfits : (CharOperand.char c).fits = false := decide_eq_false (by omega)
  simp [charRequest, charArg, hfits]

/-- After characters that fit, a character without a request decides for the whole string, whatever follows it. -/
theorem stringRequests_append_cons_error {before : List Char} {c : Char} {e : Refusal}
    (hb : ∀ b ∈ before, b.toNat ≤ 0xFF) (hc : charRequest (.char c) = .error e) (after : List Char) :
    stringRequests (before ++ c :: after) = .error e := by
  induction before with
  | nil => simp [stringRequests, hc]
  | cons b before ih =>
    obtain ⟨hfirst, hrest⟩ := List.forall_mem_cons.mp hb
    simp [stringRequests, charRequest_of_fits (CharOperand.char_fits hfirst), ih hrest]

/-! ## The refusal of the pseudo-operation -/

theorem exec_writeChar_of_error {c : CharOperand} {e : Refusal} (h : charRequest c = .error e) (s : State) :
    exec (.writeChar c) s = .refused e := by
  simp only [exec, execWriteChar, h]

theorem exec_writeString_of_error {cs : List Char} {e : Refusal} (h : stringRequests cs = .error e) (s : State) :
    exec (.writeString cs) s = .refused e := by
  simp only [exec, execWriteString, h]

end Sys2Proof.Machine

namespace Sys2Proof

open Machine

/-- Settles O25: the operand has no request, nor has a string with such a character, and the refusal that says why
does not depend on the state. -/
theorem unfitOperandsAreRefused : Obligations.UnfitOperandsAreRefused := by
  intro s
  refine ⟨fun v hv => ?_, fun c hc => ?_, fun before c after hb hc => ?_⟩
  · exact exec_writeChar_of_error (charRequest_byte_out_of_range hv) s
  · exact exec_writeChar_of_error (charRequest_char_too_large hc) s
  · exact exec_writeString_of_error
      (stringRequests_append_cons_error hb (charRequest_char_too_large hc) after) s

end Sys2Proof
end
